-- ==== Sys2Proof/Word.lean ====
section
/-! DEFINITION. The block's word types: a 64-bit register value and a byte of its bus image (spec/10_state.md R20,
spec/20_memory.md R65). -/

namespace Sys2Proof

/-- A register value: every register is 64 bits wide (R20). -/
abbrev Word := BitVec 64

/-- One byte of a register's image on the bus (R65). -/
abbrev Byte := BitVec 8

end Sys2Proof
end

