-- ==== Sys2Proof/Syntax.lean ====
section
/-! DEFINITION. The commands of RM1C, one constructor per row of spec/opcode_table.json (spec/30_encoding.md R81 to
R87). A field is an unsigned integer at its face value (R86), so it is a `Nat`; `WellFormed.lean` bounds it by its
width. -/

namespace Sys2Proof

/-- The six commands with their fields. -/
inductive Instr where
  /-- Format N: no operation (R82, R104). -/
  | nop
  /-- Format C: construct the code instance for the requested `m` (R83, R105). -/
  | cfg (m : Nat)
  /-- Format L: encode the latched MSG; `len` is the claimed message length (R84, R120). -/
  | enc (len : Nat)
  /-- Format L, PATH = 0: decode the latched RCV by the FHT; `len` is the claimed vector length (R84, R170). -/
  | decFht (len : Nat)
  /-- Format L, PATH = 1: decode the latched RCV by the Kronecker stages (R84, R171). -/
  | decKron (len : Nat)
  /-- Format K: read entry (`row`, `col`) of stage matrix `stage` (R85, R151). -/
  | kent (stage row col : Nat)
  deriving DecidableEq, Repr

/-- The rows of the opcode map, as names (R87). -/
inductive Op where
  | nop | cfg | enc | decFht | decKron | kent
  deriving DecidableEq, Repr

/-- The row of the opcode map a command belongs to. -/
def Instr.op : Instr → Op
  | .nop => .nop
  | .cfg _ => .cfg
  | .enc _ => .enc
  | .decFht _ => .decFht
  | .decKron _ => .decKron
  | .kent _ _ _ => .kent

end Sys2Proof
end

