-- ==== Sys2Proof/WellFormed.lean ====
section
/-! DEFINITION. Which commands have a command word: every field fits its width (spec/30_encoding.md R83 to R85 give
the widths, R92 the assembler's refusals). -/

namespace Sys2Proof

/-- A command whose fields fit: M and STAGE 4 bits, LEN 7 bits, ROW and COL 6 bits (R83 to R85, R92). -/
def Instr.wellFormed : Instr → Bool
  | .nop => true
  | .cfg m => m ≤ 15
  | .enc len => len ≤ 127
  | .decFht len => len ≤ 127
  | .decKron len => len ≤ 127
  | .kent stage row col => stage ≤ 15 && row ≤ 63 && col ≤ 63

end Sys2Proof
end

