-- ==== Sys2Proof/Decode.lean ====
section
/-! DEFINITION. The command word: the total decoder of spec/30_encoding.md R91, the encoder written from the opcode
map (R87, R92), and the opcode map itself as data. -/

namespace Sys2Proof

/-- `v[hi:lo]`, read as an unsigned number; empty, and 0, when `hi < lo` (spec/00_scope.md R11). -/
def field (v : Word) (hi lo : Nat) : Nat := (v.toNat >>> lo) % 2 ^ (hi + 1 - lo)

/-- Why a 64-bit value is no command. All three decode to the spec's one result ILLEGAL (R91); the name only says
which rule refused it. -/
inductive Illegal where
  /-- `CMD[63:32] ≠ 0` (R89). -/
  | highWordSet
  /-- OPC is 0x5 to 0xF (R88). -/
  | reservedOpcode
  /-- A bit that the command's format shows as 0 is set (R89). -/
  | reservedBitSet
  deriving DecidableEq, Repr

/-- `Decode(v)` of R91: every 64-bit value decodes to exactly one command or to ILLEGAL. -/
def decode (v : Word) : Except Illegal Instr :=
  if field v 63 32 ≠ 0 then .error .highWordSet
  else
    match field v 3 0 with
    | 0x0 => if field v 31 4 = 0 then .ok .nop else .error .reservedBitSet
    | 0x1 =>
      if field v 31 12 = 0 ∧ field v 7 4 = 0 then .ok (.cfg (field v 11 8)) else .error .reservedBitSet
    | 0x2 =>
      if field v 31 15 = 0 ∧ field v 7 4 = 0 then .ok (.enc (field v 14 8)) else .error .reservedBitSet
    | 0x3 =>
      if field v 31 15 = 0 ∧ field v 7 5 = 0 then
        if field v 4 4 = 0 then .ok (.decFht (field v 14 8)) else .ok (.decKron (field v 14 8))
      else .error .reservedBitSet
    | 0x4 =>
      if field v 31 30 = 0 ∧ field v 23 22 = 0 ∧ field v 15 12 = 0 ∧ field v 7 4 = 0 then
        .ok (.kent (field v 11 8) (field v 21 16) (field v 29 24))
      else .error .reservedBitSet
    | _ => .error .reservedOpcode

/-- The command word of a command, by the syntax table of R92; `CMD[63:32]` is zero (R80). -/
def encode : Instr → Word
  | .nop => BitVec.ofNat 64 0x00000000
  | .cfg m => BitVec.ofNat 64 (0x00000001 ||| (m <<< 8))
  | .enc len => BitVec.ofNat 64 (0x00000002 ||| (len <<< 8))
  | .decFht len => BitVec.ofNat 64 (0x00000003 ||| (len <<< 8))
  | .decKron len => BitVec.ofNat 64 (0x00000013 ||| (len <<< 8))
  | .kent stage row col =>
    BitVec.ofNat 64 (0x00000004 ||| (stage <<< 8) ||| (row <<< 16) ||| (col <<< 24))

/-- One row of the opcode map: the command, its match value and its mask over `word = CMD[31:0]` (R87). -/
structure OpcodeRow where
  op : Op
  pattern : BitVec 32
  mask : BitVec 32
  deriving DecidableEq, Repr

/-- The opcode map of R87. -/
def opcodeMap : List OpcodeRow :=
  [⟨.nop, 0x00000000, 0xFFFFFFFF⟩,
   ⟨.cfg, 0x00000001, 0xFFFFF0FF⟩,
   ⟨.enc, 0x00000002, 0xFFFF80FF⟩,
   ⟨.decFht, 0x00000003, 0xFFFF80FF⟩,
   ⟨.decKron, 0x00000013, 0xFFFF80FF⟩,
   ⟨.kent, 0x00000004, 0xC0C0F0FF⟩]

/-- A value selects a row when `(w & mask) == match` for its low word and `CMD[63:32] = 0` (R87). -/
def OpcodeRow.selectedBy (r : OpcodeRow) (v : Word) : Bool :=
  v.truncate 32 &&& r.mask == r.pattern && v >>> 32 == 0

/-- The command the decoder reads from a table row's word of `nbits` bits, the bits above them zero: the word is the
low part of the 64-bit value the host writes to CMD (R80). -/
def decodeTableWord (nbits w : Nat) : Option Instr :=
  match decode (BitVec.ofNat 64 (w % 2 ^ nbits)) with
  | .ok i => some i
  | .error _ => none

end Sys2Proof
end

