-- ==== Sys2Proof/Config.lean ====
section
/-! DEFINITION. The two parameters an implementation of RM1C fixes: M_MAX and BASE (spec/00_scope.md R4, R5). -/

namespace Sys2Proof

/-- The implementation parameters. The spec asks a model to take both as arguments; the machine's `State` carries
them, and no step changes them. -/
structure Config where
  /-- `M_MAX`, the largest m the block accepts (R4). -/
  mMax : Nat
  /-- `BASE`, the bus address of the register window (R5). -/
  base : Nat
  deriving DecidableEq, Repr

/-- The parameters the spec admits: `1 <= M_MAX <= 6` (R4) and BASE a multiple of 4096 (R5). -/
abbrev Config.wf (c : Config) : Prop := 1 ≤ c.mMax ∧ c.mMax ≤ 6 ∧ c.base % 4096 = 0

/-- The reference block: `M_MAX = 6` (R4). BASE is open (R5); 0 is the model's choice (log entry 1). -/
def Config.reference : Config where
  mMax := 6
  base := 0

end Sys2Proof
end

