-- ==== Sys2Proof/Machine/State.lean ====
section
/-! DEFINITION. The state of RM1C (spec/10_state.md R20 to R49) and of the agents around it (spec/00_scope.md R10),
the reasons a step can stop, and the state after reset (R49). -/

namespace Sys2Proof.Machine

/-- A host access that the block answers with an error on the bus (spec/20_memory.md R63); a command never raises
one. -/
inductive Fault where
  /-- An access in the window that is not 64 bits wide (R61). Raised by `accessOffset` for a host's read or write.
  Safe: the run stops and nothing is claimed of it, as R63 asks. -/
  | accessWidth
  /-- A 64-bit access in the window whose offset is no multiple of 8 (R62). Raised by `accessOffset` for a host's read
  or write. Safe: the run stops and nothing is claimed of it, as R63 asks. -/
  | accessAlignment
  deriving DecidableEq, Repr

/-- What the model gives no transition for. -/
inductive Refusal where
  /-- Raised by an arm of `exec` that has no meaning; no arm is left so. Safe: the run stops. -/
  | notModelled (mnemonic : String)
  /-- `exec` asked to complete a command while INFLIGHT = none, where the engine's step is not enabled (R43). Raised
  by a meaning (through `onLatch`) called on such a state; `step` never calls one there. Safe: there is no transition
  to claim anything of. -/
  | nothingInFlight
  /-- A host access that starts outside the 4096-byte window: the block does not answer it and the platform decides
  what it reaches (R64). Raised by `accessOffset`. Safe: the run stops and nothing is claimed of it. -/
  | outsideWindow
  deriving DecidableEq, Repr

/-- The error codes of STATUS.ERR (spec/60_exceptions.md R201); codes 5 to 15 are never written. -/
inductive ErrCode where
  | none | invalidLength | invalidParameter | notConfigured | illegalCommand
  deriving DecidableEq, Repr

/-- A full command latch: the 64-bit value written to CMD and the operands copied at issue (R24, R42). -/
structure Latch where
  cmd : Word
  msg : Word
  rcv : Word
  deriving DecidableEq, Repr

/-- One operation of a host program: a bus access of any width at any bus address, or the polling loop WAIT
(spec/30_encoding.md R94; the other operations of R94 are accesses, see `Machine/Bus.lean`). -/
inductive HostOp where
  /-- Write the bytes `data`, the lowest address first (R65). -/
  | write (addr : Nat) (data : List Byte)
  /-- Read `count` bytes. -/
  | read (addr count : Nat)
  /-- Read STATUS until BUSY = 0, one read a turn. -/
  | wait
  deriving DecidableEq, Repr

/-- A host: the operations it has still to perform and the bytes every read has returned to it, oldest first. -/
structure BusHost where
  prog : List HostOp
  reads : List (List Byte)
  deriving DecidableEq, Repr

/-- Whose step comes next: a host's access, the engine's completion or the platform's reset (R10, R230, R209). -/
inductive Turn where
  | host (h : Nat)
  | engine
  | reset
  deriving DecidableEq, Repr

/-- The machine. The fields up to `corr` are the block's own state (R21 to R49); `hosts` and `schedule` are the
model's, for what moves the block from outside (log entries 3 and 4). -/
structure State where
  /-- M_MAX and BASE (R4, R5), fixed when the block is built; ID is read from it (R22). -/
  cfg : Config
  /-- CONF_VALID (R40). -/
  confValid : Bool
  /-- CONF_M, an integer in [0, M_MAX] (R40). -/
  confM : Nat
  /-- GMAT: the k rows of n bits of the generator matrix, row 0 first, column j at bit j (R41, R12). -/
  gmat : List Word
  /-- INFLIGHT: none, or the command in flight with its operands (R42). -/
  inflight : Option Latch
  /-- STATUS.OVERRUN (R26). -/
  overrun : Bool
  /-- STATUS.ERR (R26, R201). -/
  err : ErrCode
  /-- MSG, the message operand (R29). -/
  msg : Word
  /-- RCV, the received-vector operand (R30). -/
  rcv : Word
  /-- CW, the codeword (R31). -/
  cw : Word
  /-- DEC, the decoded message (R32). -/
  dec : Word
  /-- PEAK_IDX (R33). -/
  peakIdx : Word
  /-- PEAK_VAL (R34). -/
  peakVal : Word
  /-- KRES (R35). -/
  kres : Word
  /-- CORR[0..63] (R37). -/
  corr : Vector Word 64
  /-- The hosts on the bus (R10, R214). -/
  hosts : List BusHost
  /-- The turns fixed so far, the next one first; `step` says who moves when it is empty. -/
  schedule : List Turn
  deriving DecidableEq, Repr

/-- Every CORR entry zero (R49). -/
def zeroCorr : Vector Word 64 := Vector.replicate 64 0

/-- The reference block right after reset (R49): idle, unconfigured, every register 0; no host has anything to do. -/
def State.reset : State where
  cfg := Config.reference
  confValid := false
  confM := 0
  gmat := []
  inflight := none
  overrun := false
  err := .none
  msg := 0
  rcv := 0
  cw := 0
  dec := 0
  peakIdx := 0
  peakVal := 0
  kres := 0
  corr := zeroCorr
  hosts := []
  schedule := []

end Sys2Proof.Machine
end

