-- ==== Sys2Proof/Machine/Operands.lean ====
section
/-! DEFINITION. Bits, vectors and numbers as commands use them (spec/00_scope.md R11 to R14), the register image on
the bus (spec/20_memory.md R65), and the lengths n and k of the current code (R3, R40). -/

namespace Sys2Proof.Machine

/-- `bit(x, i)` (R11). -/
def bit (x i : Nat) : Bool := x.testBit i

/-- The number whose bit i is `f i` for `i < n` and 0 above. -/
def packNat : Nat → (Nat → Bool) → Nat
  | 0, _ => 0
  | n + 1, f => packNat n f + (if f n then 2 ^ n else 0)

/-- The register that holds a bit vector of length `n`: element i at bit i, zeros above (R12). -/
def packBits (n : Nat) (f : Nat → Bool) : Word := BitVec.ofNat 64 (packNat n f)

/-- `sext64(x)` (R13). -/
def sext64 (x : Int) : Word := BitVec.ofInt 64 x

/-- `zext64(x)` (R13). -/
def zext64 (x : Nat) : Word := BitVec.ofNat 64 x

/-- `popcount(x)` (R13) of an `x < 2^w`: the ones among its low `w` bits. -/
def popcount (w x : Nat) : Nat := (List.range w).countP (bit x)

/-- `parity(x)` (R13) of an `x < 2^w`: whether popcount(x) is odd. -/
def parity (w x : Nat) : Bool := popcount w x % 2 == 1

/-- `v[63:len] ≠ 0`: a 1 beyond a vector's length. The field is empty when `len` is 64 or more (R11). -/
def strayBits (v : Word) (len : Nat) : Bool := field v 63 len != 0

/-- The image of a register: byte b holds bits [8b+7:8b] (R65). -/
def bytesOfWord (v : Word) : List Byte := (List.range 8).map fun b => v.extractLsb' (8 * b) 8

/-- The register value of an image, the lowest address first (R65). -/
def wordOfBytes (bs : List Byte) : Word := bs.foldr (fun b acc => acc <<< 8 ||| b.setWidth 64) 0

/-- `n = 2^m` of the current code (R3, R40). -/
def State.n (s : State) : Nat := 2 ^ s.confM

/-- `k = m + 1` of the current code (R3, R40). -/
def State.k (s : State) : Nat := s.confM + 1

/-- Entry `i` of an integer vector; a command only asks for entries the vector has. -/
def entry (w : List Int) (i : Nat) : Int := w.getD i 0

end Sys2Proof.Machine
end

