-- ==== Sys2Proof/Machine/Flags.lean ====
section
/-! DEFINITION. STATUS and its flags (spec/10_state.md R26, R47), the other assembled read values CFGR and ID (R22,
R28), and how a command's completion writes STATUS.ERR and clears BUSY (R43, spec/00_scope.md R15). No command sets a
flag from the value it computes (R47). -/

namespace Sys2Proof.Machine

/-- The code of an error name (spec/60_exceptions.md R201). -/
def ErrCode.code : ErrCode → BitVec 4
  | .none => 0
  | .invalidLength => 1
  | .invalidParameter => 2
  | .notConfigured => 3
  | .illegalCommand => 4

/-- STATUS.BUSY: a command is issued and not yet complete (R26, R42). -/
def State.busy (s : State) : Bool := s.inflight.isSome

/-- STATUS as read (R26): ERR at 11:8, OVERRUN at 3, CFG_VALID at 1, BUSY at 0, zeros elsewhere. -/
def State.statusWord (s : State) : Word :=
  0#52 ++ s.err.code ++ 0#4 ++ BitVec.ofBool s.overrun ++ 0#1 ++ BitVec.ofBool s.confValid ++ BitVec.ofBool s.busy

/-- CFGR as read (R28): n at 31:16, k at 15:8, m at 3:0 when configured, else 0. -/
def State.cfgrWord (s : State) : Word :=
  if s.confValid then 0#32 ++ BitVec.ofNat 16 s.n ++ BitVec.ofNat 8 s.k ++ 0#4 ++ BitVec.ofNat 4 s.confM else 0

/-- ID as read (R22): the magic, zeros, the interface revision, M_MAX. -/
def State.idWord (s : State) : Word :=
  0x524D3143#32 ++ 0#16 ++ 0x01#8 ++ BitVec.ofNat 8 s.cfg.mMax

/-- The end of every completion: STATUS.ERR takes the code and INFLIGHT empties, so BUSY reads 0 (R43). -/
def State.finish (e : ErrCode) (s : State) : State :=
  { s with err := e, inflight := none }

end Sys2Proof.Machine
end

