-- ==== Sys2Proof/Machine/Ops.lean ====
section
/-! DEFINITION. The shared operations: failing and succeeding (the block's whole exception mechanism), reading and
writing a register of the window, the legality of a bus access, issue and overrun, and reset. -/

namespace Sys2Proof.Machine

/-- `raise e` (spec/00_scope.md R15, spec/60_exceptions.md R210): the block's way of taking an error. Only STATUS.ERR
and BUSY change; there is no vector, saved state or mode. -/
def State.raise (e : ErrCode) (s : State) : State := s.finish e

/-- The end of a successful command: STATUS.ERR is NONE (R200). There is no return from an error (R211): the next
completion overwrites the code. -/
def State.succeed (s : State) : State := s.finish .none

/-- The engine's completion is enabled only when a command is in flight, and works on the latched copy (R43, R72). -/
def onLatch (s : State) (f : Latch → State) : Host.Outcome State Fault Refusal :=
  match s.inflight with
  | none => .refused .nothingInFlight
  | some l => .next (f l)

/-- A register of the window (R21). -/
inductive Reg where
  | id | cmd | status | cfgr | msg | rcv | cw | dec | peakIdx | peakVal | kres
  | grow (t : Nat)
  | corr (s : Nat)
  | reserved
  deriving DecidableEq, Repr

/-- The register map: the register at a window offset that is a multiple of 8 (R21). -/
def Reg.ofOffset (off : Nat) : Reg :=
  if off = 0x000 then .id
  else if off = 0x008 then .cmd
  else if off = 0x010 then .status
  else if off = 0x018 then .cfgr
  else if off = 0x020 then .msg
  else if off = 0x028 then .rcv
  else if off = 0x030 then .cw
  else if off = 0x038 then .dec
  else if off = 0x040 then .peakIdx
  else if off = 0x048 then .peakVal
  else if off = 0x050 then .kres
  else if 0x080 ≤ off ∧ off < 0x0C0 then .grow ((off - 0x080) / 8)
  else if 0x100 ≤ off ∧ off < 0x300 then .corr ((off - 0x100) / 8)
  else .reserved

/-- GROW[t] as read (R36): row t of GMAT cut to n bits when configured and t < k, else 0. -/
def State.growWord (s : State) (t : Nat) : Word :=
  if s.confValid ∧ t < s.k then packBits s.n fun j => (s.gmat.getD t 0).getLsbD j else 0

/-- The value a legal read returns (R21 to R38). It changes nothing (R66): it has no resulting state. -/
def State.readReg (s : State) : Reg → Word
  | .id => s.idWord
  | .cmd => 0
  | .status => s.statusWord
  | .cfgr => s.cfgrWord
  | .msg => s.msg
  | .rcv => s.rcv
  | .cw => s.cw
  | .dec => s.dec
  | .peakIdx => s.peakIdx
  | .peakVal => s.peakVal
  | .kres => s.kres
  | .grow t => s.growWord t
  | .corr i => if h : i < 64 then s.corr[i] else 0
  | .reserved => 0

/-- A write of CMD: issue when idle, with the operands copied (R24); overrun when busy (R25). -/
def State.writeCmd (s : State) (v : Word) : State :=
  match s.inflight with
  | none => { s with inflight := some { cmd := v, msg := s.msg, rcv := s.rcv } }
  | some _ => { s with overrun := true }

/-- A write of STATUS: bit 3 set clears OVERRUN, nothing else counts (R27). -/
def State.writeStatus (s : State) (v : Word) : State :=
  if v.getLsbD 3 then { s with overrun := false } else s

/-- The effect of a legal write (R67): only CMD, STATUS, MSG and RCV react; the rest ignore it (R38, R39). -/
def State.writeReg (s : State) (r : Reg) (v : Word) : State :=
  match r with
  | .cmd => s.writeCmd v
  | .status => s.writeStatus v
  | .msg => { s with msg := v }
  | .rcv => { s with rcv := v }
  | .id | .cfgr | .cw | .dec | .peakIdx | .peakVal | .kres | .grow _ | .corr _ | .reserved => s

/-- The window offset of a bus access of `count` bytes at `addr`, or why there is none: outside the window the block
does not answer (R64); inside, only an aligned 64-bit access is legal (R61 to R63). -/
def accessOffset (c : Config) (addr count : Nat) : Host.Outcome Nat Fault Refusal :=
  if addr < c.base ∨ c.base + 4096 ≤ addr then .refused .outsideWindow
  else if count ≠ 8 then .fault .accessWidth
  else if (addr - c.base) % 8 ≠ 0 then .fault .accessAlignment
  else .next (addr - c.base)

/-- The platform's reset (spec/70_reset_and_hazards.md R230, R231): the block's state is that of R49 at once, a
command in flight is discarded; the parameters stay, and the hosts are no part of the block. -/
def State.resetBlock (s : State) : State :=
  { State.reset with cfg := s.cfg, hosts := s.hosts, schedule := s.schedule }

end Sys2Proof.Machine
end

