-- ==== Sys2Proof/Machine/Bus.lean ====
section
/-! DEFINITION. The host agent: its accesses to the register window (spec/20_memory.md R60 to R71) and the host
operations of spec/30_encoding.md R94. -/

namespace Sys2Proof.Machine

/-- A bus read of `count` bytes at `addr`: the bytes of the register's image (R65, R66), or why it is no legal access
(R61 to R64). -/
def busRead (s : State) (addr count : Nat) : Host.Outcome (List Byte) Fault Refusal :=
  match accessOffset s.cfg addr count with
  | .next off => .next (bytesOfWord (s.readReg (Reg.ofOffset off)))
  | .fault f => .fault f
  | .refused r => .refused r

/-- A bus write of the bytes `data` at `addr`: the register's effect (R67, R68), or why it is no legal access; a
faulting write is dropped whole (R63). -/
def busWrite (s : State) (addr : Nat) (data : List Byte) : Host.Outcome State Fault Refusal :=
  match accessOffset s.cfg addr data.length with
  | .next off => .next (s.writeReg (Reg.ofOffset off) (wordOfBytes data))
  | .fault f => .fault f
  | .refused r => .refused r

/-- Host `h` becomes `b`: its remaining program or what it has read. -/
def State.setHost (s : State) (h : Nat) (b : BusHost) : State := { s with hosts := s.hosts.set h b }

/-- The bus address of STATUS, which WAIT reads (R94). -/
def statusAddr (c : Config) : Nat := c.base + 0x010

/-- Bit 0 of a register image: for STATUS, BUSY (R26, R65). -/
def imageBit0 (bs : List Byte) : Bool := (wordOfBytes bs).getLsbD 0

/-- A read of host `h`: it gains the bytes read and goes on with `prog`, which may depend on them (WAIT). -/
def hostRead (s : State) (h : Nat) (b : BusHost) (addr count : Nat) (prog : List Byte → List HostOp) :
    Host.Outcome State Fault Refusal :=
  match busRead s addr count with
  | .next bs => .next (s.setHost h { prog := prog bs, reads := b.reads ++ [bs] })
  | .fault f => .fault f
  | .refused r => .refused r

/-- One access of host `h`, its next (R69). WAIT reads STATUS and stays until BUSY reads 0 (R71, R94). A host that
does not exist or has nothing left passes its turn. -/
def hostStep (h : Nat) (s : State) : Host.Outcome State Fault Refusal :=
  match s.hosts[h]? with
  | none => .next s
  | some b =>
    match b.prog with
    | [] => .next s
    | .write addr data :: rest => busWrite (s.setHost h { b with prog := rest }) addr data
    | .read addr count :: rest => hostRead s h b addr count fun _ => rest
    | .wait :: rest =>
      hostRead s h b (statusAddr s.cfg) 8 fun bs => if imageBit0 bs then .wait :: rest else rest

/-- `WR off <- v`: `MemWrite(BASE + off, 8, v)` (R94, spec/00_scope.md R15). -/
def HostOp.wr (c : Config) (off : Nat) (v : Word) : HostOp := .write (c.base + off) (bytesOfWord v)

/-- `RD off`: `MemRead(BASE + off, 8)` (R94, spec/00_scope.md R15). -/
def HostOp.rd (c : Config) (off : Nat) : HostOp := .read (c.base + off) 8

/-- `ISSUE c`: a write of CMD (R94). -/
def HostOp.issue (c : Config) (v : Word) : HostOp := .wr c 0x008 v

/-- `CLROVR`: a write of STATUS with bit 3 set (R94). -/
def HostOp.clrovr (c : Config) : HostOp := .wr c 0x010 0x8

end Sys2Proof.Machine
end

