-- ==== Sys2Proof/Machine/Configuration.lean ====
section
/-! DEFINITION. The configuration family (spec/40_config.md): the generator matrix, NOP and CFG. -/

namespace Sys2Proof.Machine

/-- `Gen(m)[r][c]`: row 0 is all ones; row r is bit r-1 of the column number (R101). -/
def genBit (r c : Nat) : Bool := r == 0 || bit c (r - 1)

/-- `Gen(m)`: the k = m+1 rows of n = 2^m bits, each as a register value (R101, R102). -/
def gen (m : Nat) : List Word := (List.range (m + 1)).map fun r => packBits (2 ^ m) (genBit r)

/-- The instance writes of a successful CFG: CONF_M, CONF_VALID and GMAT (R105). -/
def State.configure (m : Nat) (s : State) : State :=
  { s with confM := m, confValid := true, gmat := gen m }

/-- The clearing of every result by a successful CFG (R105, R107). -/
def State.clearResults (s : State) : State :=
  { s with cw := 0, dec := 0, peakIdx := 0, peakVal := 0, kres := 0, corr := zeroCorr }

/-- NOP (R104): only STATUS.ERR is written. -/
def execNop (s : State) : Host.Outcome State Fault Refusal :=
  onLatch s fun _ => s.succeed

/-- CFG (R105): a legal m starts a new instance and clears the results; any other m is InvalidParameter and changes
nothing else (R106). -/
def execCfg (m : Nat) (s : State) : Host.Outcome State Fault Refusal :=
  onLatch s fun _ =>
    if m < 1 ∨ m > s.cfg.mMax then s.raise .invalidParameter
    else ((s.configure m).clearResults).succeed

end Sys2Proof.Machine
end

