-- ==== Sys2Proof/Machine/Encoder.lean ====
section
/-! DEFINITION. The encoder family (spec/41_encode.md): ENC. -/

namespace Sys2Proof.Machine

/-- `G[t][j]` of a stored matrix (spec/10_state.md R41). -/
def gmatBit (g : List Word) (t j : Nat) : Bool := (g.getD t 0).getLsbD j

/-- Bit j of the codeword: the XOR over t in 0..k-1 of `msg[t] & G[t][j]` (R120). -/
def codeBit (g : List Word) (k : Nat) (msg : Word) (j : Nat) : Bool :=
  (List.range k).foldl (fun b t => b ^^ (msg.getLsbD t && gmatBit g t j)) false

/-- The codeword register: bits 0..n-1 by `codeBit`, zeros above (R120). -/
def encodeWith (g : List Word) (n k : Nat) (msg : Word) : Word := packBits n (codeBit g k msg)

/-- `encode_m(u) = u·G` over GF(2), with the message and the codeword as register values (R121). -/
def encodeFn (m : Nat) (u : Word) : Word := encodeWith (gen m) (2 ^ m) (m + 1) u

/-- ENC (R120): the three checks in order, then CW from the latched message. -/
def execEnc (len : Nat) (s : State) : Host.Outcome State Fault Refusal :=
  onLatch s fun l =>
    if s.confValid = false then s.raise .notConfigured
    else if len ≠ s.k then s.raise .invalidLength
    else if strayBits l.msg s.k then s.raise .invalidParameter
    else State.succeed { s with cw := encodeWith s.gmat s.n s.k l.msg }

end Sys2Proof.Machine
end

