-- ==== Sys2Proof/Machine/Transform.lean ====
section
/-! DEFINITION. The transform family (spec/42_transform.md): the in-place FHT, the Kronecker stage matrices, the
reference multiply, and KENT. All arithmetic is on exact integers (R142). -/

namespace Sys2Proof.Machine

/-- One butterfly on the pair (j, j+h) (R140). -/
def butterfly (h : Nat) (a : List Int) (j : Nat) : List Int :=
  (a.set j (entry a j + entry a (j + h))).set (j + h) (entry a j - entry a (j + h))

/-- One stage: the blocks of length 2h tile [0, n), and each offset of a block is one butterfly (R140). -/
def fhtStage (n h : Nat) (a : List Int) : List Int :=
  (List.range (n / (2 * h))).foldl
    (fun a b => (List.range h).foldl (fun a j => butterfly h a (2 * h * b + j)) a) a

/-- `fht(a)` of n = 2^m entries: the stages h = 1, 2, 4, ..., n/2 in order (R140, R141). -/
def fht (m : Nat) (a : List Int) : List Int :=
  (List.range m).foldl (fun a s => fhtStage (2 ^ m) (2 ^ s) a) a

/-- `Kstage(m, i)[a][b]` by the closed form of R147, with h = 2^(i-1); it depends on m only through the range of a
and b. `x & ~h ≠ 0` is written `x | h ≠ h`. -/
def kstage (i a b : Nat) : Int :=
  if ((a ^^^ b) ||| 2 ^ (i - 1)) ≠ 2 ^ (i - 1) then 0
  else if bit a (i - 1) ∧ bit b (i - 1) then -1
  else 1

/-- One full n×n product by stage matrix i: `v'[a] = sum over b of Kstage[a][b] * v[b]` (R148). -/
def kronStage (n i : Nat) (v : List Int) : List Int :=
  (List.range n).map fun a => (List.range n).foldl (fun acc b => acc + kstage i a b * entry v b) 0

/-- `kron(m, w)`: the stages i = 1, ..., m in order (R148). -/
def kron (m : Nat) (w : List Int) : List Int :=
  (List.range m).foldl (fun v i => kronStage (2 ^ m) (i + 1) v) w

/-- KENT (R151): the checks in order, then KRES from the closed form. -/
def execKent (stage row col : Nat) (s : State) : Host.Outcome State Fault Refusal :=
  onLatch s fun _ =>
    if s.confValid = false then s.raise .notConfigured
    else if stage < 1 ∨ stage > s.confM ∨ row ≥ s.n ∨ col ≥ s.n then s.raise .invalidParameter
    else State.succeed { s with kres := sext64 (kstage stage row col) }

/-- A matrix of integers by row and column; its size is said where it is used (spec/00_scope.md R16). -/
abbrev IntMatrix := Nat → Nat → Int

/-- The identity matrix (spec/00_scope.md R16). -/
def identity : IntMatrix := fun a b => if a = b then 1 else 0

/-- The 2×2 Hadamard kernel (spec/00_scope.md R16). -/
def hadamardKernel : IntMatrix := fun a b => if a = 1 ∧ b = 1 then -1 else 1

/-- `A ⊗ B` for an r×r matrix B: entry (a*r + c, b*r + d) is `A[a][b] * B[c][d]` (spec/00_scope.md R17). -/
def kronecker (r : Nat) (A B : IntMatrix) : IntMatrix := fun x y => A (x / r) (y / r) * B (x % r) (y % r)

/-- `Kstage(m, i)` by its definition, `(I(2^(m-i)) ⊗ H) ⊗ I(2^(i-1))` (R146). Its size m shows only in the range of
its indices: the identity I(2^(m-i)) is cut from `identity`. -/
def kstageMatrix (i : Nat) : IntMatrix :=
  kronecker (2 ^ (i - 1)) (kronecker 2 identity hadamardKernel) identity

/-- `Had(m) = H ⊗ ... ⊗ H`, m factors (R143). -/
def hadamard : Nat → IntMatrix
  | 0 => identity
  | m + 1 => kronecker (2 ^ m) hadamardKernel (hadamard m)

/-- `M · w` for an n×n matrix (spec/00_scope.md R16). -/
def matVec (n : Nat) (M : IntMatrix) (w : List Int) : List Int :=
  (List.range n).map fun a => ((List.range n).map fun b => M a b * entry w b).sum

end Sys2Proof.Machine
end

