-- ==== Sys2Proof/Machine/Decoder.lean ====
section
/-! DEFINITION. The decoder family (spec/43_decode.md): DEC.FHT and DEC.KRON, which differ only in the transform of
Step 2 (R173). -/

namespace Sys2Proof.Machine

/-- Step 1: `w[i] = 1 - 2 * r[i]` for i < n (R172). -/
def bipolar (n : Nat) (rcv : Word) : List Int :=
  (List.range n).map fun i => 1 - 2 * ((rcv.getLsbD i).toNat : Int)

/-- The PATH of a decode (spec/30_encoding.md R84). -/
inductive DecPath where
  | fht | kron
  deriving DecidableEq, Repr

/-- Step 2 (R173). -/
def transform (path : DecPath) (m : Nat) (w : List Int) : List Int :=
  match path with
  | .fht => fht m w
  | .kron => kron m w

/-- Step 3: the lowest index of largest magnitude (R174); `s + 1` runs over 1..n-1. -/
def peak (n : Nat) (w : List Int) : Nat :=
  (List.range (n - 1)).foldl (fun p s => if (entry w (s + 1)).natAbs > (entry w p).natAbs then s + 1 else p) 0

/-- Step 4: bit 0 is the sign of the peak, bits 1..m are the peak's index (R175, R177). -/
def recover (m : Nat) (w : List Int) (p : Nat) : Word :=
  packBits (m + 1) fun t => if t = 0 then decide (entry w p < 0) else bit p (t - 1)

/-- CORR from the transformed vector: sext64 of W[s] for s < n, 0 above (R176, R37). -/
def corrOf (n : Nat) (w : List Int) : Vector Word 64 :=
  Vector.ofFn fun s : Fin 64 => if s.val < n then sext64 (entry w s.val) else 0

/-- `W[s]` by its meaning: the correlation of the bipolar word with the ±1 sequence of `j ↦ parity(s & j)`
(spec/42_transform.md R144). The commands compute it by `transform`; this is what they are held to. -/
def correlation (m : Nat) (rcv : Word) (s : Nat) : Int :=
  ((List.range (2 ^ m)).map fun j => (-1) ^ popcount m (s &&& j) * (if rcv.getLsbD j then -1 else 1)).sum

/-- `WriteDecodeResults` with the peak and the message of the transformed vector (R174 to R176). -/
def State.writeDecode (w : List Int) (s : State) : State :=
  { s with
    dec := recover s.confM w (peak s.n w)
    peakIdx := zext64 (peak s.n w)
    peakVal := sext64 (entry w (peak s.n w))
    corr := corrOf s.n w }

/-- `ExecDEC(path, len, rcv)` on the latched vector (R170). -/
def decodeWith (path : DecPath) (len : Nat) (s : State) (l : Latch) : State :=
  if s.confValid = false then s.raise .notConfigured
  else if len ≠ s.n then s.raise .invalidLength
  else if s.n < 64 ∧ strayBits l.rcv s.n then s.raise .invalidParameter
  else (s.writeDecode (transform path s.confM (bipolar s.n l.rcv))).succeed

/-- DEC.FHT (R170). -/
def execDecFht (len : Nat) (s : State) : Host.Outcome State Fault Refusal :=
  onLatch s (decodeWith .fht len s)

/-- DEC.KRON (R171). -/
def execDecKron (len : Nat) (s : State) : Host.Outcome State Fault Refusal :=
  onLatch s (decodeWith .kron len s)

end Sys2Proof.Machine
end

