-- ==== Sys2Proof/Machine/Dispatch.lean ====
section
/-! DEFINITION. `exec`: the meaning of each command, as the engine performs it on the command in flight
(spec/10_state.md R43). -/

namespace Sys2Proof.Machine

def exec (i : Instr) (s : State) : Host.Outcome State Fault Refusal :=
  match i with
  | .nop => Sys2Proof.Machine.execNop s
  | .cfg m => Sys2Proof.Machine.execCfg m s
  | .enc len => Sys2Proof.Machine.execEnc len s
  | .decFht len => Sys2Proof.Machine.execDecFht len s
  | .decKron len => Sys2Proof.Machine.execDecKron len s
  | .kent stage row col => Sys2Proof.Machine.execKent stage row col s

end Sys2Proof.Machine
end

