-- ==== Sys2Proof/Machine/Engine.lean ====
section
/-! DEFINITION. The engine's completion (spec/10_state.md R43), the turns of the agents (spec/00_scope.md R10,
spec/60_exceptions.md R209) and whose turn is next. -/

namespace Sys2Proof.Machine

/-- The completion of the latched value `v`: its command's meaning, or IllegalCommand when it decodes to ILLEGAL
(R43, spec/60_exceptions.md R205). -/
def complete (v : Word) (s : State) : Host.Outcome State Fault Refusal :=
  match decode v with
  | .ok i => exec i s
  | .error _ => onLatch s fun _ => s.raise .illegalCommand

/-- The engine's turn: `Complete()` when a command is in flight; with INFLIGHT = none the step is not enabled and the
turn passes (R43). -/
def engineStep (s : State) : Host.Outcome State Fault Refusal :=
  match s.inflight with
  | none => .next s
  | some l => complete l.cmd s

/-- One agent's turn; no two events happen in one step (R209). -/
def takeTurn (t : Turn) (s : State) : Host.Outcome State Fault Refusal :=
  match t with
  | .host h => hostStep h s
  | .engine => engineStep s
  | .reset => .next s.resetBlock

/-- Whose turn is next. The schedule fixes it where it says; past its end the engine completes what is in flight
(fairness, spec/70_reset_and_hazards.md R240), then the first host with an operation left moves (log entry 4); with
neither, the run is at its end (R242; with several hosts, by log entry 14). -/
def State.nextTurn (s : State) : Option Turn :=
  match s.schedule with
  | t :: _ => some t
  | [] =>
    if s.busy then some .engine
    else (s.hosts.findIdx? fun b => !b.prog.isEmpty).map .host

/-- The state in which the next turn is taken: the schedule's first entry is used up. -/
def State.popTurn (s : State) : State := { s with schedule := s.schedule.tail }

end Sys2Proof.Machine
end

