-- ==== Sys2Proof/Machine/Step.lean ====
section
/-! DEFINITION. One step of the machine: one turn of one agent (spec/00_scope.md R10, spec/20_memory.md R69). -/

namespace Sys2Proof.Machine

/-- The next agent takes its turn; at the end of the run (spec/70_reset_and_hazards.md R242, log entry 14) nothing
moves. -/
def step (s : State) : Host.Outcome State Fault Refusal :=
  match s.nextTurn with
  | none => .next s
  | some t => takeTurn t s.popTurn

/-- `s` with the command word `w` of `nbits` bits in INFLIGHT, where the engine takes its next command from
(spec/10_state.md R42, R43), the operands copied as at issue (R24), and the engine's turn next: the very next step
completes that command. It stands for a host's write of CMD (log entry 5). -/
def State.withFetchWord (s : State) (nbits w : Nat) : State :=
  { s with
    inflight := some { cmd := BitVec.ofNat 64 (w % 2 ^ nbits), msg := s.msg, rcv := s.rcv }
    schedule := .engine :: s.schedule }

end Sys2Proof.Machine
end

