-- ==== Sys2Proof/Machine/Assembler.lean ====
section
/-! DEFINITION. The assembler syntax of spec/30_encoding.md R92 and R93: one command a line, its operands in decimal
or 0x-hex separated by commas, and the one pseudo-instruction. Text is a list of characters. -/

namespace Sys2Proof.Machine

/-- A line of assembly: a command, or the pseudo-instruction `DEC len` (R93). -/
inductive AsmLine where
  | command (i : Instr)
  | dec (len : Nat)
  deriving DecidableEq, Repr

/-- The command a line stands for: `DEC len` is `DEC.FHT len` (R93). -/
def AsmLine.expand : AsmLine → Instr
  | .command i => i
  | .dec len => .decFht len

/-- The command word of a line; an operand that does not fit its field is refused (R92). -/
def assemble (line : AsmLine) : Option (BitVec 32) :=
  if line.expand.wellFormed then some ((encode line.expand).truncate 32) else none

/-- The value of a digit character, up to hexadecimal. -/
def digitValue (c : Char) : Option Nat :=
  if '0' ≤ c ∧ c ≤ '9' then some (c.toNat - '0'.toNat)
  else if 'a' ≤ c ∧ c ≤ 'f' then some (c.toNat - 'a'.toNat + 10)
  else if 'A' ≤ c ∧ c ≤ 'F' then some (c.toNat - 'A'.toNat + 10)
  else none

/-- The digits of a numeral in the given radix, after the value `acc` of those before them. -/
def readDigits (radix : Nat) : Nat → List Char → Option Nat
  | acc, [] => some acc
  | acc, c :: cs =>
    match digitValue c with
    | some d => if d < radix then readDigits radix (acc * radix + d) cs else none
    | none => none

/-- An operand: decimal, or hexadecimal after 0x (R92). -/
def readNumber : List Char → Option Nat
  | [] => none
  | ['0', 'x'] => none
  | '0' :: 'x' :: cs => readDigits 16 0 cs
  | cs => readDigits 10 0 cs

/-- The text without the spaces around it. -/
def trimSpaces (cs : List Char) : List Char :=
  ((cs.dropWhile (· == ' ')).reverse.dropWhile (· == ' ')).reverse

/-- The pieces between commas. -/
def splitCommas : List Char → List (List Char)
  | [] => [[]]
  | c :: cs =>
    match splitCommas cs with
    | [] => [[c]]
    | piece :: rest => if c == ',' then [] :: piece :: rest else (c :: piece) :: rest

/-- The operands of a line: none, or numbers separated by commas (R92). -/
def readOperands (cs : List Char) : Option (List Nat) :=
  if trimSpaces cs = [] then some [] else (splitCommas cs).mapM fun piece => readNumber (trimSpaces piece)

/-- The line a mnemonic and its operands make (R92, R93). -/
def lineOf : List Char → List Nat → Option AsmLine
  | ['N', 'O', 'P'], [] => some (.command .nop)
  | ['C', 'F', 'G'], [m] => some (.command (.cfg m))
  | ['E', 'N', 'C'], [len] => some (.command (.enc len))
  | ['D', 'E', 'C', '.', 'F', 'H', 'T'], [len] => some (.command (.decFht len))
  | ['D', 'E', 'C', '.', 'K', 'R', 'O', 'N'], [len] => some (.command (.decKron len))
  | ['K', 'E', 'N', 'T'], [stage, row, col] => some (.command (.kent stage row col))
  | ['D', 'E', 'C'], [len] => some (.dec len)
  | _, _ => none

/-- The line a text stands for: mnemonic, then operands (R92). -/
def readLine (text : List Char) : Option AsmLine :=
  let cs := trimSpaces text
  match readOperands (cs.dropWhile (· != ' ')) with
  | some operands => lineOf (cs.takeWhile (· != ' ')) operands
  | none => none

/-- The command word of a line of text, or none where the assembler refuses it (R92). -/
def assembleText (text : List Char) : Option (BitVec 32) := (readLine text).bind assemble

end Sys2Proof.Machine
end

