-- ==== Sys2Proof/Safety.lean ====
section
/-! DEFINITION. What a sound state and a safe run are: the invariants of the block's state (spec/10_state.md R31 to
R41), hosts that make only legal accesses (spec/20_memory.md R61 to R64), runs, and the end of a run
(spec/70_reset_and_hazards.md R242). -/

namespace Sys2Proof.Machine

/-- The instance is none, or the one a successful CFG makes (R40, R41, spec/40_config.md R105). -/
structure State.ConfigInv (s : State) : Prop where
  /-- The parameters are ones the spec admits (spec/00_scope.md R4, R5). -/
  parameters : s.cfg.wf
  unconfigured : s.confValid = false → s.confM = 0 ∧ s.gmat = []
  configured : s.confValid = true → 1 ≤ s.confM ∧ s.confM ≤ s.cfg.mMax ∧ s.gmat = gen s.confM

/-- The result registers hold values that some command can leave, and those of one decode belong together. -/
structure State.ResultInv (s : State) : Prop where
  /-- Without an instance every result is 0 (R49). -/
  cleared : s.confValid = false →
    s.cw = 0 ∧ s.dec = 0 ∧ s.peakIdx = 0 ∧ s.peakVal = 0 ∧ s.kres = 0 ∧ s.corr = zeroCorr
  /-- `CW[63:n] = 0` (R31). -/
  codeword_fits : strayBits s.cw s.n = false
  /-- KRES is the image of 0, 1 or -1 (R35). -/
  stage_entry : s.kres = sext64 0 ∨ s.kres = sext64 1 ∨ s.kres = sext64 (-1)
  /-- Every CORR entry lies in [-n, n] (R37). -/
  corr_bound : ∀ i, (s.readReg (.corr i)).toInt.natAbs ≤ s.n
  /-- `CORR[s] = 0` for s >= n (R37). -/
  corr_above : ∀ i, s.n ≤ i → s.readReg (.corr i) = 0
  /-- `0 <= maxIdx < n` (R33). -/
  peak_below : s.peakIdx.toNat < s.n
  /-- PEAK_VAL is the correlation at PEAK_IDX (R34). -/
  peak_value : s.peakVal = s.readReg (.corr s.peakIdx.toNat)
  /-- The peak is the first of largest magnitude (spec/43_decode.md R174). -/
  peak_largest : ∀ i, (s.readReg (.corr i)).toInt.natAbs ≤ s.peakVal.toInt.natAbs
  peak_first : ∀ i, i < s.peakIdx.toNat → (s.readReg (.corr i)).toInt.natAbs < s.peakVal.toInt.natAbs
  /-- DEC is the peak's index above the peak's sign (spec/43_decode.md R175). -/
  decoded : s.dec = s.peakIdx <<< 1 ||| (if s.peakVal.toInt < 0 then 1 else 0)

/-- An access the block answers: an aligned 64-bit access in the window, or WAIT, which reads STATUS (R61, R62). -/
def HostOp.legal (c : Config) : HostOp → Bool
  | .write addr data => c.base ≤ addr && addr < c.base + 4096 && data.length == 8 && (addr - c.base) % 8 == 0
  | .read addr count => c.base ≤ addr && addr < c.base + 4096 && count == 8 && (addr - c.base) % 8 == 0
  | .wait => true

/-- Every operation every host has left is legal. -/
def State.hostsLegal (s : State) : Bool := s.hosts.all fun b => b.prog.all (HostOp.legal s.cfg)

/-- `k` steps of the machine, stopping at the first fault or refusal. -/
def runFor : Nat → State → Host.Outcome State Fault Refusal
  | 0, s => .next s
  | k + 1, s =>
    match step s with
    | .next t => runFor k t
    | .fault f => .fault f
    | .refused r => .refused r

/-- A run that never stops: no access fault, no access outside the window (spec/20_memory.md R63, R64). -/
def State.Safe (s : State) : Prop := ∀ k, ∃ t, runFor k s = .next t

/-- The end of a run: the host program is done and INFLIGHT = none (spec/70_reset_and_hazards.md R242). R242 speaks of
one host program; that a run of several ends only when every one of them is done, and one of none when INFLIGHT = none,
is the model's choice (DESIGN CHOICE, log entry 14: safe for the statements, unsafe for
a claim on the final state of a run of several hosts). -/
def State.finished (s : State) : Bool := s.hosts.all (fun b => b.prog.isEmpty) && !s.busy

end Sys2Proof.Machine
end

