-- ==== Sys2Proof/Certificates/Slice0/Obligations.lean ====
section
/-! DEFINITION. The statements for the provers: encoding, registers, host accesses, the engine, the commands, the
mathematics of the codec, and the invariants of the machine. -/

open Sys2Proof Sys2Proof.Machine

/-! ### Encoding (spec/30_encoding.md) -/

/-- Command words written out by hand from the formats of R82 to R85 decode to their commands. -/
def Obligations.WordsFromTheFormatsDecode : Prop :=
  decode 0x00000000 = .ok .nop ∧
  decode 0b1011_0000_0001 = .ok (.cfg 11) ∧
  decode 0b0101_0101_0000_0010 = .ok (.enc 85) ∧
  decode 0b0100_0000_0000_0011 = .ok (.decFht 64) ∧
  decode 0b0010_0000_0001_0011 = .ok (.decKron 32) ∧
  decode 0b0010_0101_0010_1010_0000_0110_0000_0100 = .ok (.kent 6 42 37)

/-- No bit of an encoding is dropped: decoding the word of a well-formed command gives the command back. -/
def Obligations.DecodeOfEncodeIsTheCommand : Prop :=
  ∀ i : Instr, i.wellFormed = true → decode (encode i) = .ok i

/-- The other direction: a value that decodes to a command is that command's word, and the command is well formed. -/
def Obligations.EncodeOfDecodeIsTheValue : Prop :=
  ∀ (v : Word) (i : Instr), decode v = .ok i → i.wellFormed = true ∧ encode i = v

/-- R87: the decoder and the opcode map agree; one row or none matches any value. -/
def Obligations.DecoderAgreesWithTheOpcodeMap : Prop :=
  ∀ v : Word, (opcodeMap.filter fun r => r.selectedBy v).map (fun r => r.op) =
    match decode v with
    | .ok i => [i.op]
    | .error _ => []

/-- R88, R89: a value is ILLEGAL exactly when its OPC is reserved or a bit its format shows as 0 is set. -/
def Obligations.IllegalExactlyOnReservedOpcodeOrBit : Prop :=
  ∀ v : Word, (∃ r, decode v = .error r) ↔
    5 ≤ field v 3 0 ∨
    ∃ b, b < 64 ∧ v.getLsbD b = true ∧
      (32 ≤ b ∨ (field v 3 0 = 0 ∧ 4 ≤ b) ∨
        (field v 3 0 = 1 ∧ (12 ≤ b ∨ 4 ≤ b ∧ b ≤ 7)) ∨
        (field v 3 0 = 2 ∧ (15 ≤ b ∨ 4 ≤ b ∧ b ≤ 7)) ∨
        (field v 3 0 = 3 ∧ (15 ≤ b ∨ 5 ≤ b ∧ b ≤ 7)) ∨
        (field v 3 0 = 4 ∧ (30 ≤ b ∨ 22 ≤ b ∧ b ≤ 23 ∨ 12 ≤ b ∧ b ≤ 15 ∨ 4 ≤ b ∧ b ≤ 7)))

/-- R92, R93: the word of each assembly line, the refusal of an operand that does not fit, and the pseudo `DEC`. -/
def Obligations.AssemblerWordsAndRefusals : Prop :=
  assemble (.command .nop) = some 0x00000000 ∧
  (∀ m, assemble (.command (.cfg m)) =
    if 15 < m then none else some (BitVec.ofNat 32 (0x00000001 ||| (m <<< 8)))) ∧
  (∀ len, assemble (.command (.enc len)) =
    if 127 < len then none else some (BitVec.ofNat 32 (0x00000002 ||| (len <<< 8)))) ∧
  (∀ len, assemble (.command (.decFht len)) =
    if 127 < len then none else some (BitVec.ofNat 32 (0x00000003 ||| (len <<< 8)))) ∧
  (∀ len, assemble (.command (.decKron len)) =
    if 127 < len then none else some (BitVec.ofNat 32 (0x00000013 ||| (len <<< 8)))) ∧
  (∀ stage row col, assemble (.command (.kent stage row col)) =
    if 15 < stage ∨ 63 < row ∨ 63 < col then none
    else some (BitVec.ofNat 32 (0x00000004 ||| (stage <<< 8) ||| (row <<< 16) ||| (col <<< 24)))) ∧
  (∀ len, assemble (.dec len) = assemble (.command (.decFht len)))

/-! ### Registers (spec/10_state.md) -/

/-- R21, R38: the offsets of the register map. -/
def Obligations.RegisterMapOffsets : Prop :=
  Reg.ofOffset 0x000 = .id ∧ Reg.ofOffset 0x008 = .cmd ∧ Reg.ofOffset 0x010 = .status ∧
  Reg.ofOffset 0x018 = .cfgr ∧ Reg.ofOffset 0x020 = .msg ∧ Reg.ofOffset 0x028 = .rcv ∧
  Reg.ofOffset 0x030 = .cw ∧ Reg.ofOffset 0x038 = .dec ∧ Reg.ofOffset 0x040 = .peakIdx ∧
  Reg.ofOffset 0x048 = .peakVal ∧ Reg.ofOffset 0x050 = .kres ∧
  (∀ t, t < 8 → Reg.ofOffset (0x080 + 8 * t) = .grow t) ∧
  (∀ i, i < 64 → Reg.ofOffset (0x100 + 8 * i) = .corr i) ∧
  (∀ off, (0x058 ≤ off ∧ off ≤ 0x07F) ∨ (0x0C0 ≤ off ∧ off ≤ 0x0FF) ∨ (0x300 ≤ off ∧ off ≤ 0xFFF) →
    Reg.ofOffset off = .reserved)

/-- R23, R38: CMD and the reserved offsets read 0 in every state. -/
def Obligations.CmdAndReservedOffsetsReadZero : Prop :=
  ∀ s : State, s.readReg (Reg.ofOffset 0x008) = 0 ∧
    ∀ off, (0x058 ≤ off ∧ off ≤ 0x07F) ∨ (0x0C0 ≤ off ∧ off ≤ 0x0FF) ∨ (0x300 ≤ off ∧ off ≤ 0xFFF) →
      s.readReg (Reg.ofOffset off) = 0

/-- R49: after reset every register of the window reads 0, but ID, which reads its constant. -/
def Obligations.RegistersReadZeroAfterReset : Prop :=
  State.reset.readReg (Reg.ofOffset 0x000) = 0x524D314300000106 ∧
  ∀ off, 0 < off → off < 4096 → off % 8 = 0 → State.reset.readReg (Reg.ofOffset off) = 0

/-- R26: every bit of STATUS, with the codes of R201 in bits 11:8. -/
def Obligations.StatusReadsItsFields : Prop :=
  ∀ (s : State) (b : Nat), b < 64 →
    (s.readReg .status).getLsbD b =
      (if b = 0 then s.inflight.isSome
      else if b = 1 then s.confValid
      else if b = 3 then s.overrun
      else if 8 ≤ b ∧ b ≤ 11 then
        (match s.err with
          | .none => 0#4
          | .invalidLength => 1#4
          | .invalidParameter => 2#4
          | .notConfigured => 3#4
          | .illegalCommand => 4#4).getLsbD (b - 8)
      else false)

/-- R22, R28: the fields of ID and CFGR, for every admitted parameter and instance. -/
def Obligations.IdAndCfgrReadTheirFields : Prop :=
  ∀ s : State, s.ConfigInv →
    (field (s.readReg .id) 7 0 = s.cfg.mMax ∧ field (s.readReg .id) 15 8 = 0x01 ∧
      field (s.readReg .id) 31 16 = 0 ∧ field (s.readReg .id) 63 32 = 0x524D3143) ∧
    (s.confValid = true →
      field (s.readReg .cfgr) 3 0 = s.confM ∧ field (s.readReg .cfgr) 7 4 = 0 ∧
      field (s.readReg .cfgr) 15 8 = s.confM + 1 ∧ field (s.readReg .cfgr) 31 16 = 2 ^ s.confM ∧
      field (s.readReg .cfgr) 63 32 = 0) ∧
    (s.confValid = false → s.readReg .cfgr = 0)

/-- R36, R101, R102: GROW[t] of a configured block is row t of Gen(m), bit by bit; every other GROW reads 0. -/
def Obligations.GrowReadsTheGeneratorRows : Prop :=
  ∀ s : State, s.ConfigInv → ∀ t j, j < 64 →
    (s.readReg (.grow t)).getLsbD j =
      (s.confValid && decide (t ≤ s.confM) && decide (j < 2 ^ s.confM) &&
        (decide (t = 0) || Nat.testBit j (t - 1)))

/-- R24, R25: a CMD write while idle latches the value and copies of both operands; while busy it is discarded and sets
OVERRUN. Nothing else changes, the command in flight among it. -/
def Obligations.CmdWriteIssuesOrOverruns : Prop :=
  ∀ (s : State) (v : Word),
    (s.inflight = none →
      s.writeReg (Reg.ofOffset 0x008) v = { s with inflight := some { cmd := v, msg := s.msg, rcv := s.rcv } }) ∧
    (s.inflight ≠ none → s.writeReg (Reg.ofOffset 0x008) v = { s with overrun := true })

/-- R27: a STATUS write clears OVERRUN when bit 3 is set and does nothing else. -/
def Obligations.StatusWriteOnlyClearsOverrun : Prop :=
  ∀ (s : State) (v : Word),
    s.writeReg (Reg.ofOffset 0x010) v = { s with overrun := s.overrun && !v.getLsbD 3 }

/-- R29, R30, R38, R39, R67: MSG and RCV store the value; every offset but those of CMD, STATUS, MSG and RCV ignores
it. -/
def Obligations.OperandWritesStoreAndOtherWritesAreIgnored : Prop :=
  ∀ (s : State) (v : Word),
    s.writeReg (Reg.ofOffset 0x020) v = { s with msg := v } ∧
    s.writeReg (Reg.ofOffset 0x028) v = { s with rcv := v } ∧
    ∀ off, off < 4096 → off % 8 = 0 → off ≠ 0x008 → off ≠ 0x010 → off ≠ 0x020 → off ≠ 0x028 →
      s.writeReg (Reg.ofOffset off) v = s

/-! ### Host accesses (spec/20_memory.md, spec/30_encoding.md R94) -/

/-- R65: byte b of a register's image is bits [8b+7:8b], and the image gives the value back. -/
def Obligations.RegisterImageIsLittleEndian : Prop :=
  ∀ v : Word, (bytesOfWord v).length = 8 ∧
    (∀ b, b < 8 → (bytesOfWord v)[b]? = some (v.extractLsb' (8 * b) 8)) ∧ wordOfBytes (bytesOfWord v) = v

/-- R66, R68: a legal read returns the register's value and changes nothing but the host's own record (log entry 3) and
the schedule (log entry 4). R29 to R35, R37: what the operand and result registers and CORR return is what they hold,
each its own; ID, CMD, STATUS, CFGR and GROW have their statements above. -/
def Obligations.HostReadReturnsTheRegister : Prop :=
  (∀ (s : State) (h : Nat) (b : BusHost) (off : Nat) (rest : List HostOp) (ts : List Turn),
    s.schedule = .host h :: ts → s.hosts[h]? = some b → b.prog = HostOp.rd s.cfg off :: rest →
    off < 4096 → off % 8 = 0 →
    step s = .next
      { s with
        schedule := ts
        hosts := s.hosts.set h
          { prog := rest, reads := b.reads ++ [bytesOfWord (s.readReg (Reg.ofOffset off))] } }) ∧
  ∀ s : State,
    s.readReg .msg = s.msg ∧ s.readReg .rcv = s.rcv ∧ s.readReg .cw = s.cw ∧ s.readReg .dec = s.dec ∧
    s.readReg .peakIdx = s.peakIdx ∧ s.readReg .peakVal = s.peakVal ∧ s.readReg .kres = s.kres ∧
    ∀ i, (hi : i < 64) → s.readReg (.corr i) = s.corr[i]

/-- R67, R68: a legal 64-bit write has its register's effect with the whole value, in one step; the host's program and
the schedule are the model's own (log entries 3 and 4). -/
def Obligations.HostWriteReachesTheRegister : Prop :=
  ∀ (s : State) (h : Nat) (b : BusHost) (off : Nat) (v : Word) (rest : List HostOp) (ts : List Turn),
    s.schedule = .host h :: ts → s.hosts[h]? = some b → b.prog = HostOp.wr s.cfg off v :: rest →
    off < 4096 → off % 8 = 0 →
    step s = .next
      (State.writeReg
        { s with schedule := ts, hosts := s.hosts.set h { prog := rest, reads := b.reads } }
        (Reg.ofOffset off) v)

/-- R61 to R64: in the window an access of another width, or a misaligned one, faults; outside it the block does not
answer. The access is judged by its first byte (log entry 8), and the turn is the host's by the schedule (log entries 3
and 4). -/
def Obligations.IllegalAccessesStop : Prop :=
  ∀ (s : State) (h : Nat) (b : BusHost) (op : HostOp) (rest : List HostOp) (ts : List Turn) (addr count : Nat),
    s.schedule = .host h :: ts → s.hosts[h]? = some b → b.prog = op :: rest →
    (op = .read addr count ∨ ∃ data : List Byte, op = .write addr data ∧ data.length = count) →
    (s.cfg.base ≤ addr → addr < s.cfg.base + 4096 → count ≠ 8 → step s = .fault .accessWidth) ∧
    (s.cfg.base ≤ addr → addr < s.cfg.base + 4096 → count = 8 → (addr - s.cfg.base) % 8 ≠ 0 →
      step s = .fault .accessAlignment) ∧
    (addr < s.cfg.base ∨ s.cfg.base + 4096 ≤ addr → step s = .refused .outsideWindow)

/-- R94, R71: WAIT reads STATUS; it stays while BUSY reads 1 and is over when BUSY reads 0. That each poll is added to
the host's record is the model's choice (log entry 3), and so is the turn it uses up (log entry 4). -/
def Obligations.WaitPollsStatusUntilIdle : Prop :=
  ∀ (s : State) (h : Nat) (b : BusHost) (rest : List HostOp) (ts : List Turn),
    s.schedule = .host h :: ts → s.hosts[h]? = some b → b.prog = .wait :: rest →
    step s = .next
      { s with
        schedule := ts
        hosts := s.hosts.set h
          { prog := if s.inflight.isSome then .wait :: rest else rest
            reads := b.reads ++ [bytesOfWord (s.readReg .status)] } }

/-- R42: a host sees the latch only through BUSY and overrun: what is in it changes nothing a host's turn does. -/
def Obligations.LatchContentsAreHiddenFromHosts : Prop :=
  ∀ (s : State) (h : Nat) (l l' : Latch),
    hostStep h { s with inflight := some l' } =
      match hostStep h { s with inflight := some l } with
      | .next t => .next { t with inflight := some l' }
      | .fault f => .fault f
      | .refused r => .refused r

/-- R45, R70: a host's turn leaves every result, the error code and the instance as they are. -/
def Obligations.HostTurnsLeaveResultsAlone : Prop :=
  ∀ (s t : State) (h : Nat), hostStep h s = .next t →
    t.cw = s.cw ∧ t.dec = s.dec ∧ t.peakIdx = s.peakIdx ∧ t.peakVal = s.peakVal ∧ t.kres = s.kres ∧
    t.corr = s.corr ∧ t.err = s.err ∧ t.confValid = s.confValid ∧ t.confM = s.confM ∧ t.gmat = s.gmat ∧
    t.cfg = s.cfg ∧ t.schedule = s.schedule

/-! ### The engine and reset (spec/10_state.md R43, spec/70_reset_and_hazards.md) -/

/-- R43: the engine's turn on a value that decodes to a command is that command's `exec`, on the state with the turn
used up; past the schedule's end it is the engine's turn when a command is in flight (log entry 4). -/
def Obligations.StepRunsTheDecodedCommand : Prop :=
  ∀ (s : State) (l : Latch) (i : Instr), s.inflight = some l → decode l.cmd = .ok i →
    (∀ ts, s.schedule = .engine :: ts → step s = exec i { s with schedule := ts }) ∧
    (s.schedule = [] → step s = exec i s)

/-- R205, R90: a value that decodes to ILLEGAL completes with IllegalCommand and writes nothing else, configured or
not. The schedule, and that the engine moves past its end when a command is in flight, are the model's own (log entry
4). -/
def Obligations.IllegalCommandWritesOnlyItsCode : Prop :=
  ∀ (s : State) (l : Latch) (r : Illegal), s.inflight = some l → decode l.cmd = .error r →
    (∀ ts, s.schedule = .engine :: ts →
      step s = .next { s with schedule := ts, err := .illegalCommand, inflight := none }) ∧
    (s.schedule = [] → step s = .next { s with err := .illegalCommand, inflight := none })

/-- R43: with nothing in flight the engine's step is not enabled; its turn passes (log entry 4). -/
def Obligations.IdleEngineChangesNothing : Prop :=
  ∀ (s : State) (ts : List Turn), s.inflight = none → s.schedule = .engine :: ts →
    step s = .next { s with schedule := ts }

/-- R230, R231, R49: reset sets all of the block's state at once and discards a command in flight; the parameters stay
and the hosts are outside the block (log entry 3); the schedule is the model's own (log entry 4). -/
def Obligations.ResetSetsEveryPieceOfState : Prop :=
  ∀ (s : State) (ts : List Turn), s.schedule = .reset :: ts →
    step s = .next
      { cfg := s.cfg, confValid := false, confM := 0, gmat := [], inflight := none, overrun := false, err := .none,
        msg := 0, rcv := 0, cw := 0, dec := 0, peakIdx := 0, peakVal := 0, kres := 0,
        corr := Vector.replicate 64 0, hosts := s.hosts, schedule := ts }

/-- R25, R42, R43, R231: only the engine's completion and reset empty the latch, and nothing changes what is in it. -/
def Obligations.LatchIsKeptUntilCompletionOrReset : Prop :=
  ∀ (s t : State) (l : Latch), s.inflight = some l → step s = .next t →
    t.inflight = some l ∨
      (t.inflight = none ∧ (s.nextTurn = some .engine ∨ s.nextTurn = some .reset))

/-- R240: a command in flight, with legal hosts and no reset to come, is completed after finitely many steps; the
interleaving is the schedule's (log entry 4). -/
def Obligations.CommandInFlightCompletes : Prop :=
  ∀ (s : State) (l : Latch), s.inflight = some l → Turn.reset ∉ s.schedule → s.hostsLegal = true →
    ∃ k, k ≤ s.schedule.length ∧ ∃ t u, runFor k s = .next t ∧ t.inflight = some l ∧
      t.nextTurn = some .engine ∧ step t = .next u ∧ u.inflight = none

/-! ### The commands (spec/40_config.md to spec/43_decode.md) -/

/-- R104: NOP sets ERR to NONE, clears BUSY and changes nothing else, configured or not. -/
def Obligations.NopOnlyClearsTheErrorCode : Prop :=
  ∀ s : State, s.inflight ≠ none → exec .nop s = .next { s with err := .none, inflight := none }

/-- R105, R107: CFG with a legal m makes the instance and clears every result; OVERRUN and the operands stay. -/
def Obligations.CfgMakesTheInstanceAndClearsResults : Prop :=
  ∀ (s : State) (m : Nat), s.inflight ≠ none → 1 ≤ m → m ≤ s.cfg.mMax →
    exec (.cfg m) s = .next
      { s with
        confM := m, confValid := true, gmat := gen m
        cw := 0, dec := 0, peakIdx := 0, peakVal := 0, kres := 0, corr := Vector.replicate 64 0
        err := .none, inflight := none }

/-- R105, R106, R203: CFG with m = 0 or m > M_MAX is InvalidParameter and changes nothing else. -/
def Obligations.CfgOutOfRangeOnlySetsTheErrorCode : Prop :=
  ∀ (s : State) (m : Nat), s.inflight ≠ none → m = 0 ∨ s.cfg.mMax < m →
    exec (.cfg m) s = .next { s with err := .invalidParameter, inflight := none }

/-- R120, R121: ENC on a valid message writes CW = u·G over GF(2) from the latched message, zeros above n, and changes
nothing else. -/
def Obligations.EncWritesTheCodeword : Prop :=
  ∀ (s : State) (l : Latch), s.inflight = some l → s.confValid = true → strayBits l.msg s.k = false →
    ∃ c : Word, exec (.enc s.k) s = .next { s with cw := c, err := .none, inflight := none } ∧
      ∀ j, j < 64 → c.getLsbD j =
        (decide (j < s.n) &&
          (List.range s.k).countP (fun t => l.msg.getLsbD t && (s.gmat.getD t 0).getLsbD j) % 2 == 1)

/-- R120, R202 to R204, R208: ENC's three errors in their order, each changing only the code. -/
def Obligations.EncErrorsInOrder : Prop :=
  ∀ (s : State) (l : Latch) (len : Nat), s.inflight = some l →
    (s.confValid = false → exec (.enc len) s = .next { s with err := .notConfigured, inflight := none }) ∧
    (s.confValid = true → len ≠ s.k →
      exec (.enc len) s = .next { s with err := .invalidLength, inflight := none }) ∧
    (s.confValid = true → len = s.k → strayBits l.msg s.k = true →
      exec (.enc len) s = .next { s with err := .invalidParameter, inflight := none })

/-- R151, R146: KENT in range writes the entry of the stage matrix as the Kronecker products define it, and changes
nothing else. -/
def Obligations.KentWritesTheStageEntry : Prop :=
  ∀ (s : State) (stage row col : Nat), s.inflight ≠ none → s.confValid = true →
    1 ≤ stage → stage ≤ s.confM → row < s.n → col < s.n →
    exec (.kent stage row col) s = .next
      { s with kres := sext64 (kstageMatrix stage row col), err := .none, inflight := none }

/-- R151, R203, R204, R208: KENT's errors in their order, each changing only the code. -/
def Obligations.KentErrorsInOrder : Prop :=
  ∀ (s : State) (stage row col : Nat), s.inflight ≠ none →
    (s.confValid = false →
      exec (.kent stage row col) s = .next { s with err := .notConfigured, inflight := none }) ∧
    (s.confValid = true → stage = 0 ∨ s.confM < stage ∨ s.n ≤ row ∨ s.n ≤ col →
      exec (.kent stage row col) s = .next { s with err := .invalidParameter, inflight := none })

/-- R170, R172 to R176, R144: DEC.FHT on a valid vector writes the correlations, their first peak of largest magnitude,
its value, and the message it stands for, and changes nothing else. -/
def Obligations.DecFhtWritesTheMaximumLikelihoodDecode : Prop :=
  ∀ (s : State) (l : Latch), s.inflight = some l → s.confValid = true → strayBits l.rcv s.n = false →
    ∃ (corrs : Vector Word 64) (p : Nat),
      exec (.decFht s.n) s = .next
        { s with
          dec := BitVec.ofNat 64
            (2 * p + if correlation s.confM l.rcv p < 0 then 1 else 0)
          peakIdx := zext64 p, peakVal := sext64 (correlation s.confM l.rcv p), corr := corrs
          err := .none, inflight := none } ∧
      (∀ i, (hi : i < 64) → corrs[i] = if i < s.n then sext64 (correlation s.confM l.rcv i) else 0) ∧
      p < s.n ∧
      (∀ i, i < s.n → (correlation s.confM l.rcv i).natAbs ≤ (correlation s.confM l.rcv p).natAbs) ∧
      (∀ i, i < p → (correlation s.confM l.rcv i).natAbs < (correlation s.confM l.rcv p).natAbs)

/-- R171 to R176, R144: DEC.KRON on a valid vector writes the same, by the Kronecker stages. -/
def Obligations.DecKronWritesTheMaximumLikelihoodDecode : Prop :=
  ∀ (s : State) (l : Latch), s.inflight = some l → s.confValid = true → strayBits l.rcv s.n = false →
    ∃ (corrs : Vector Word 64) (p : Nat),
      exec (.decKron s.n) s = .next
        { s with
          dec := BitVec.ofNat 64
            (2 * p + if correlation s.confM l.rcv p < 0 then 1 else 0)
          peakIdx := zext64 p, peakVal := sext64 (correlation s.confM l.rcv p), corr := corrs
          err := .none, inflight := none } ∧
      (∀ i, (hi : i < 64) → corrs[i] = if i < s.n then sext64 (correlation s.confM l.rcv i) else 0) ∧
      p < s.n ∧
      (∀ i, i < s.n → (correlation s.confM l.rcv i).natAbs ≤ (correlation s.confM l.rcv p).natAbs) ∧
      (∀ i, i < p → (correlation s.confM l.rcv i).natAbs < (correlation s.confM l.rcv p).natAbs)

/-- R170, R171, R202 to R204, R208: the three errors of either decode in their order, each changing only the code. -/
def Obligations.DecErrorsInOrder : Prop :=
  ∀ (s : State) (l : Latch) (len : Nat) (i : Instr), s.inflight = some l → i = .decFht len ∨ i = .decKron len →
    (s.confValid = false → exec i s = .next { s with err := .notConfigured, inflight := none }) ∧
    (s.confValid = true → len ≠ s.n → exec i s = .next { s with err := .invalidLength, inflight := none }) ∧
    (s.confValid = true → len = s.n → s.n < 64 → strayBits l.rcv s.n = true →
      exec i s = .next { s with err := .invalidParameter, inflight := none })

/-- R200, R210: every command in flight completes; if it fails it has written only its code. -/
def Obligations.EveryCommandCompletesPrecisely : Prop :=
  ∀ (i : Instr) (s : State), s.inflight ≠ none →
    ∃ t, exec i s = .next t ∧ t.inflight = none ∧
      (t.err ≠ .none → t = { s with err := t.err, inflight := none })

/-- R108: no command but a CFG that succeeds changes the instance or its matrix. -/
def Obligations.OnlySuccessfulCfgChangesTheInstance : Prop :=
  ∀ (i : Instr) (s t : State), exec i s = .next t → (∀ m, i ≠ .cfg m) ∨ t.err ≠ .none →
    t.confValid = s.confValid ∧ t.confM = s.confM ∧ t.gmat = s.gmat

/-- R29 to R37: the frame of the commands. Each result register is written only by the commands its rule names; the
operands, OVERRUN, the parameters, the hosts and the schedule by none. -/
def Obligations.CommandsWriteOnlyTheirOwnResults : Prop :=
  ∀ (i : Instr) (s t : State), exec i s = .next t →
    (i.op ≠ .cfg → i.op ≠ .enc → t.cw = s.cw) ∧
    (i.op ≠ .cfg → i.op ≠ .decFht → i.op ≠ .decKron →
      t.dec = s.dec ∧ t.peakIdx = s.peakIdx ∧ t.peakVal = s.peakVal ∧ t.corr = s.corr) ∧
    (i.op ≠ .cfg → i.op ≠ .kent → t.kres = s.kres) ∧
    t.msg = s.msg ∧ t.rcv = s.rcv ∧ t.overrun = s.overrun ∧ t.cfg = s.cfg ∧ t.hosts = s.hosts ∧
    t.schedule = s.schedule

/-- R72: the engine never reads MSG or RCV after issue: whatever they hold, a command does the same. -/
def Obligations.CommandsUseOnlyTheLatchedOperands : Prop :=
  ∀ (i : Instr) (s : State) (a b : Word),
    exec i { s with msg := a, rcv := b } =
      match exec i s with
      | .next t => .next { t with msg := a, rcv := b }
      | .fault f => .fault f
      | .refused r => .refused r

/-! ### The code and the transforms (spec/41_encode.md, spec/42_transform.md, spec/43_decode.md) -/

/-- R123: encoding is linear over GF(2). -/
def Obligations.EncodingIsLinear : Prop :=
  ∀ (m : Nat) (u v : Word), encodeFn m (u ^^^ v) = encodeFn m u ^^^ encodeFn m v

/-- R122: both closed forms of a codeword, for every m the block can have. -/
def Obligations.CodewordClosedForms : Prop :=
  ∀ (m : Nat) (u : Word), m ≤ 6 →
    (∀ j, j < 2 ^ m → (encodeFn m u).getLsbD j = (u.getLsbD 0 ^^ parity m (j &&& field u m 1))) ∧
    encodeFn m u =
      (List.range m).foldl (fun c r => if u.getLsbD (r + 1) then c ^^^ (gen m).getD (r + 1) 0 else c)
        (if u.getLsbD 0 then (gen m).getD 0 0 else 0)

/-- R124, R125: a codeword fits its n bits and has weight 0, n or n/2; two distinct messages have codewords that differ
in at least 2^(m-1) positions. -/
def Obligations.CodewordWeightsAndDistance : Prop :=
  ∀ (m : Nat) (u : Word), 1 ≤ m → m ≤ 6 → strayBits u (m + 1) = false →
    strayBits (encodeFn m u) (2 ^ m) = false ∧
    popcount 64 (encodeFn m u).toNat = (if u = 0 then 0 else if u = 1 then 2 ^ m else 2 ^ (m - 1)) ∧
    ∀ v : Word, strayBits v (m + 1) = false → v ≠ u →
      2 ^ (m - 1) ≤ popcount 64 (encodeFn m u ^^^ encodeFn m v).toNat

/-- R147: the entries of a stage matrix as the Kronecker products of R146 define it, the closed form the block computes,
and the two non-zero columns of each row. -/
def Obligations.StageMatrixClosedForm : Prop :=
  ∀ m i a b : Nat, 1 ≤ i → i ≤ m → a < 2 ^ m → b < 2 ^ m →
    ((∃ p, p ≠ i - 1 ∧ Nat.testBit a p ≠ Nat.testBit b p) → kstageMatrix i a b = 0) ∧
    ((∀ p, p ≠ i - 1 → Nat.testBit a p = Nat.testBit b p) →
      kstageMatrix i a b =
        if Nat.testBit a (i - 1) = true ∧ Nat.testBit b (i - 1) = true then -1 else 1) ∧
    kstage i a b = kstageMatrix i a b ∧
    (kstageMatrix i a b ≠ 0 ↔ b = a ∨ b = a ^^^ 2 ^ (i - 1))

/-- R144: the closed form of Had(m), and of the transform as correlations with the ±1 sequences of linear functions. -/
def Obligations.HadamardClosedForm : Prop :=
  (∀ m i j : Nat, i < 2 ^ m → j < 2 ^ m → hadamard m i j = (-1) ^ popcount m (i &&& j)) ∧
  ∀ (m i : Nat) (a : List Int), a.length = 2 ^ m → i < 2 ^ m →
    entry (fht m a) i = ((List.range (2 ^ m)).map fun j => (-1) ^ popcount m (i &&& j) * entry a j).sum

/-- R143: the in-place FHT multiplies by the m-fold Kronecker power of the kernel. -/
def Obligations.FhtIsTheHadamardProduct : Prop :=
  ∀ (m : Nat) (a : List Int), a.length = 2 ^ m → fht m a = matVec (2 ^ m) (hadamard m) a

/-- R149: the Kronecker reference transform and the FHT agree exactly on every integer vector, stage by stage, and the
stages commute. -/
def Obligations.KroneckerTransformEqualsFht : Prop :=
  ∀ (m : Nat) (w : List Int), w.length = 2 ^ m →
    kron m w = fht m w ∧
    (∀ i, 1 ≤ i → i ≤ m → kronStage (2 ^ m) i w = fhtStage (2 ^ m) (2 ^ (i - 1)) w) ∧
    (∀ i j, 1 ≤ i → i ≤ m → 1 ≤ j → j ≤ m →
      kronStage (2 ^ m) i (kronStage (2 ^ m) j w) = kronStage (2 ^ m) j (kronStage (2 ^ m) i w))

/-- R142: after s stages on a bipolar vector every entry is within 2^s, and even from the first stage on. -/
def Obligations.TransformNeverOverflows : Prop :=
  ∀ (m s : Nat) (rcv : Word) (i : Nat), s ≤ m → i < 2 ^ m →
    (entry ((List.range s).foldl (fun a q => fhtStage (2 ^ m) (2 ^ q) a) (bipolar (2 ^ m) rcv)) i).natAbs ≤ 2 ^ s ∧
    (1 ≤ s →
      entry ((List.range s).foldl (fun a q => fhtStage (2 ^ m) (2 ^ q) a) (bipolar (2 ^ m) rcv)) i % 2 = 0)

/-- R174: the peak is the first index of largest magnitude. -/
def Obligations.PeakIsTheFirstOfLargestMagnitude : Prop :=
  ∀ (n : Nat) (w : List Int), 0 < n →
    peak n w < n ∧ (∀ i, i < n → (entry w i).natAbs ≤ (entry w (peak n w)).natAbs) ∧
    (∀ i, i < peak n w → (entry w i).natAbs < (entry w (peak n w)).natAbs)

/-- R178: the two decode commands do the same in every state, length and latch. -/
def Obligations.TheTwoDecodePathsAgree : Prop :=
  ∀ (s : State) (len : Nat), exec (.decFht len) s = exec (.decKron len) s

/-- R179: decoding, by either path and whatever happened in between, the codeword an ENC left gives back the message
that ENC was issued with. -/
def Obligations.NoiselessRoundTrip : Prop :=
  ∀ (s t u : State) (l l' : Latch), s.ConfigInv → s.inflight = some l → exec (.enc s.k) s = .next t → t.err = .none →
    u.ConfigInv → u.confValid = true → u.confM = s.confM → u.inflight = some l' → l'.rcv = t.cw →
    (∃ f, exec (.decFht u.n) u = .next f ∧ f.err = .none ∧ f.dec = l.msg) ∧
    (∃ f, exec (.decKron u.n) u = .next f ∧ f.err = .none ∧ f.dec = l.msg)

/-- R180: fewer than n/4 flipped bits are corrected: the decode gives the message sent, the peak stands at its linear
part, and its value is n - 2t with the sign of the constant term. -/
def Obligations.FewFlipsAreCorrected : Prop :=
  ∀ (s : State) (l : Latch) (u : Word), s.ConfigInv → s.confValid = true → s.inflight = some l →
    strayBits u s.k = false → strayBits l.rcv s.n = false →
    4 * popcount 64 (l.rcv ^^^ encodeFn s.confM u).toNat < s.n →
    ∃ f, exec (.decFht s.n) s = .next f ∧ exec (.decKron s.n) s = .next f ∧ f.err = .none ∧ f.dec = u ∧
      f.peakIdx = u >>> 1 ∧
      f.peakVal.toInt = (if u.getLsbD 0 then -1 else 1) *
        ((s.n : Int) - 2 * popcount 64 (l.rcv ^^^ encodeFn s.confM u).toNat)

/-- R181: the squares of the correlations sum to n^2, so the peak's square is at least n, the peak is never 0 and its sign
is defined. -/
def Obligations.PeakValueIsNeverZero : Prop :=
  ∀ (s : State) (l : Latch), s.ConfigInv → s.confValid = true → s.inflight = some l →
    strayBits l.rcv s.n = false →
    ((List.range s.n).map fun i => correlation s.confM l.rcv i ^ 2).sum = (s.n : Int) ^ 2 ∧
    ∃ f, exec (.decFht s.n) s = .next f ∧ exec (.decKron s.n) s = .next f ∧ f.err = .none ∧
      (s.n : Int) ≤ f.peakVal.toInt ^ 2 ∧ f.peakVal ≠ 0

/-- R183: with the map and the sign rule both inverted, every correlation is negated and the decoded message is the
same. -/
def Obligations.InverseConventionGivesTheSameMessage : Prop :=
  ∀ (m : Nat) (rcv : Word), m ≤ 6 →
    fht m ((bipolar (2 ^ m) rcv).map fun x => -x) = (fht m (bipolar (2 ^ m) rcv)).map (fun x => -x) ∧
    peak (2 ^ m) (fht m ((bipolar (2 ^ m) rcv).map fun x => -x)) = peak (2 ^ m) (fht m (bipolar (2 ^ m) rcv)) ∧
    (packBits (m + 1) fun t =>
        if t = 0 then
          decide (0 < entry (fht m ((bipolar (2 ^ m) rcv).map fun x => -x))
            (peak (2 ^ m) (fht m ((bipolar (2 ^ m) rcv).map fun x => -x))))
        else bit (peak (2 ^ m) (fht m ((bipolar (2 ^ m) rcv).map fun x => -x))) (t - 1)) =
      recover m (fht m (bipolar (2 ^ m) rcv)) (peak (2 ^ m) (fht m (bipolar (2 ^ m) rcv)))

/-! ### Invariants of every step, and safe runs -/

/-- The state after reset meets both invariants and its hosts are legal. -/
def Obligations.ResetMeetsTheInvariants : Prop :=
  State.reset.ConfigInv ∧ State.reset.ResultInv ∧ State.reset.hostsLegal = true

/-- R40, R41, R105: every step keeps the instance well formed and GMAT = Gen(CONF_M), and no step changes M_MAX or
BASE. -/
def Obligations.StepKeepsTheInstanceInvariant : Prop :=
  ∀ s t : State, s.ConfigInv → step s = .next t → t.ConfigInv ∧ t.cfg = s.cfg

/-- R31 to R37, R174 to R176: every step keeps the result registers within their ranges and those of a decode
consistent with each other. -/
def Obligations.StepKeepsTheResultInvariant : Prop :=
  ∀ s t : State, s.ConfigInv → s.ResultInv → step s = .next t → t.ResultInv

/-- R61 to R64, R200: hosts that make only legal accesses never stop the machine: no command, illegal or not, and no
schedule ends a run. -/
def Obligations.LegalHostsRunForever : Prop :=
  ∀ s : State, s.hostsLegal = true → s.Safe
end

