-- ==== Sys2Proof/Laws/Operands.lean ====
section
/-! SUPPORT. One lemma per helper on bits, vectors and numbers; the meanings' proofs cite these. -/

namespace Sys2Proof.Machine

theorem packNat_lt (n : Nat) (f : Nat → Bool) : packNat n f < 2 ^ n := by
  induction n with
  | zero => simp [packNat]
  | succ n ih =>
    simp only [packNat, Nat.pow_succ]
    split <;> omega

/-- Bit j of a packed vector is element j, and 0 beyond the vector. -/
@[simp] theorem testBit_packNat (n : Nat) (f : Nat → Bool) (j : Nat) :
    (packNat n f).testBit j = (decide (j < n) && f j) := by
  induction n with
  | zero => simp [packNat]
  | succ n ih =>
    have hlt := packNat_lt n f
    by_cases hf : f n
    · have hsum : packNat (n + 1) f = 2 ^ n + packNat n f := by simp [packNat, hf, Nat.add_comm]
      rcases Nat.lt_trichotomy j n with h | h | h
      · rw [hsum, Nat.testBit_two_pow_add_gt h, ih]
        simp [h, Nat.lt_succ_of_lt h]
      · subst h
        rw [hsum, Nat.testBit_two_pow_add_eq, Nat.testBit_lt_two_pow hlt]
        simp [hf]
      · have : packNat (n + 1) f < 2 ^ j :=
          Nat.lt_of_lt_of_le (packNat_lt (n + 1) f) (Nat.pow_le_pow_right (by omega) h)
        rw [Nat.testBit_lt_two_pow this]
        simp [show ¬ j < n + 1 by omega]
    · simp only [packNat, hf, Bool.false_eq_true, if_false, Nat.add_zero, ih]
      by_cases h : j = n
      · subst h; simp [hf]
      · simp [show j < n + 1 ↔ j < n by omega]

/-- Bit j of the register that holds a vector (R12). -/
@[simp] theorem getLsbD_packBits (n : Nat) (f : Nat → Bool) (j : Nat) :
    (packBits n f).getLsbD j = (decide (j < 64) && (decide (j < n) && f j)) := by
  simp [packBits, BitVec.getLsbD_ofNat]

@[simp] theorem getElem_packBits (n : Nat) (f : Nat → Bool) (j : Nat) (hj : j < 64) :
    (packBits n f)[j] = (decide (j < n) && f j) := by
  rw [← BitVec.getLsbD_eq_getElem, getLsbD_packBits]
  simp [hj]

theorem packBits_congr {n : Nat} {f g : Nat → Bool} (h : ∀ j, j < n → f j = g j) :
    packBits n f = packBits n g := by
  apply BitVec.eq_of_getLsbD_eq
  intro j hj
  by_cases hn : j < n
  · simp [hn, h j hn]
  · simp [hn]

/-- No stray bits: the register's value is below 2^len (R13, for len <= 64). -/
theorem strayBits_eq_false_iff (v : Word) {len : Nat} (h : len ≤ 64) :
    strayBits v len = false ↔ v.toNat < 2 ^ len := by
  have hv := v.isLt
  have hq : v.toNat / 2 ^ len < 2 ^ (64 - len) := by
    rw [Nat.div_lt_iff_lt_mul (by positivity), ← Nat.pow_add]
    rwa [Nat.sub_add_cancel h]
  simp only [strayBits, field, bne_eq_false_iff_eq, Nat.shiftRight_eq_div_pow,
    show (63 : Nat) + 1 - len = 64 - len by omega, Nat.mod_eq_of_lt hq, Nat.div_eq_zero_iff]
  constructor
  · rintro (h0 | h0)
    · exact absurd h0 (by positivity)
    · exact h0
  · exact Or.inr

/-- A signed result that fits 64 bits reads back as itself (R13). -/
theorem toInt_sext64 {x : Int} (h₁ : -2 ^ 63 ≤ x) (h₂ : x < 2 ^ 63) : (sext64 x).toInt = x := by
  rw [sext64, BitVec.toInt_ofInt]
  apply Int.bmod_eq_of_le <;> omega

@[simp] theorem toNat_zext64 (x : Nat) : (zext64 x).toNat = x % 2 ^ 64 := by simp [zext64]

@[simp] theorem length_gen (m : Nat) : (gen m).length = m + 1 := by simp [gen]

/-- Bit j of row t of Gen(m) (spec/40_config.md R101). -/
theorem gmatBit_gen {m t j : Nat} (ht : t < m + 1) :
    gmatBit (gen m) t j = (decide (j < 64) && (decide (j < 2 ^ m) && genBit t j)) := by
  simp [gmatBit, gen, List.getD_eq_getElem?_getD, List.getElem?_map, List.getElem?_range ht]

@[simp] theorem length_bipolar (n : Nat) (rcv : Word) : (bipolar n rcv).length = n := by simp [bipolar]

@[simp] theorem length_butterfly (h : Nat) (a : List Int) (j : Nat) : (butterfly h a j).length = a.length := by
  simp [butterfly]

/-- A fold of length-keeping updates keeps the length. -/
theorem length_foldl {α β : Type} (f : List β → α → List β) (hf : ∀ a x, (f a x).length = a.length) (l : List α)
    (a : List β) : (l.foldl f a).length = a.length := by
  induction l generalizing a with
  | nil => rfl
  | cons x l ih => rw [List.foldl_cons, ih, hf]

@[simp] theorem length_fhtStage (n h : Nat) (a : List Int) : (fhtStage n h a).length = a.length :=
  length_foldl _ (fun a _ => length_foldl _ (fun a _ => length_butterfly h a _) _ a) _ a

@[simp] theorem length_fht (m : Nat) (a : List Int) : (fht m a).length = a.length :=
  length_foldl _ (fun a _ => length_fhtStage _ _ a) _ a

@[simp] theorem length_kronStage (n i : Nat) (v : List Int) : (kronStage n i v).length = n := by simp [kronStage]

/-- Entry a of a stage product (spec/42_transform.md R148). -/
theorem entry_kronStage {n i a : Nat} (ha : a < n) (v : List Int) :
    entry (kronStage n i v) a = (List.range n).foldl (fun acc b => acc + kstage i a b * entry v b) 0 := by
  simp [entry, kronStage, List.getD_eq_getElem?_getD, List.getElem?_map, List.getElem?_range ha]

@[simp] theorem corrOf_getElem (n : Nat) (w : List Int) (i : Nat) (h : i < 64) :
    (corrOf n w)[i] = if i < n then sext64 (entry w i) else 0 := by
  simp [corrOf]

@[simp] theorem zeroCorr_getElem (i : Nat) (h : i < 64) : zeroCorr[i] = 0 := by simp [zeroCorr]

end Sys2Proof.Machine
end

