-- ==== Sys2Proof/Laws/State.lean ====
section
/-! SUPPORT. What each named update of the state does to each field, so that no proof unfolds a record update. -/

namespace Sys2Proof.Machine

variable (s : State)

/-! ### `State.finish` -/

@[simp] theorem State.finish_cfg (e : ErrCode) : (s.finish e).cfg = s.cfg := rfl
@[simp] theorem State.finish_confValid (e : ErrCode) : (s.finish e).confValid = s.confValid := rfl
@[simp] theorem State.finish_confM (e : ErrCode) : (s.finish e).confM = s.confM := rfl
@[simp] theorem State.finish_gmat (e : ErrCode) : (s.finish e).gmat = s.gmat := rfl
@[simp] theorem State.finish_inflight (e : ErrCode) : (s.finish e).inflight = none := rfl
@[simp] theorem State.finish_overrun (e : ErrCode) : (s.finish e).overrun = s.overrun := rfl
@[simp] theorem State.finish_err (e : ErrCode) : (s.finish e).err = e := rfl
@[simp] theorem State.finish_msg (e : ErrCode) : (s.finish e).msg = s.msg := rfl
@[simp] theorem State.finish_rcv (e : ErrCode) : (s.finish e).rcv = s.rcv := rfl
@[simp] theorem State.finish_cw (e : ErrCode) : (s.finish e).cw = s.cw := rfl
@[simp] theorem State.finish_dec (e : ErrCode) : (s.finish e).dec = s.dec := rfl
@[simp] theorem State.finish_peakIdx (e : ErrCode) : (s.finish e).peakIdx = s.peakIdx := rfl
@[simp] theorem State.finish_peakVal (e : ErrCode) : (s.finish e).peakVal = s.peakVal := rfl
@[simp] theorem State.finish_kres (e : ErrCode) : (s.finish e).kres = s.kres := rfl
@[simp] theorem State.finish_corr (e : ErrCode) : (s.finish e).corr = s.corr := rfl
@[simp] theorem State.finish_hosts (e : ErrCode) : (s.finish e).hosts = s.hosts := rfl
@[simp] theorem State.finish_schedule (e : ErrCode) : (s.finish e).schedule = s.schedule := rfl
@[simp] theorem State.finish_n (e : ErrCode) : (s.finish e).n = s.n := rfl
@[simp] theorem State.finish_k (e : ErrCode) : (s.finish e).k = s.k := rfl

/-! ### `State.raise` -/

@[simp] theorem State.raise_cfg (e : ErrCode) : (s.raise e).cfg = s.cfg := rfl
@[simp] theorem State.raise_confValid (e : ErrCode) : (s.raise e).confValid = s.confValid := rfl
@[simp] theorem State.raise_confM (e : ErrCode) : (s.raise e).confM = s.confM := rfl
@[simp] theorem State.raise_gmat (e : ErrCode) : (s.raise e).gmat = s.gmat := rfl
@[simp] theorem State.raise_inflight (e : ErrCode) : (s.raise e).inflight = none := rfl
@[simp] theorem State.raise_overrun (e : ErrCode) : (s.raise e).overrun = s.overrun := rfl
@[simp] theorem State.raise_err (e : ErrCode) : (s.raise e).err = e := rfl
@[simp] theorem State.raise_msg (e : ErrCode) : (s.raise e).msg = s.msg := rfl
@[simp] theorem State.raise_rcv (e : ErrCode) : (s.raise e).rcv = s.rcv := rfl
@[simp] theorem State.raise_cw (e : ErrCode) : (s.raise e).cw = s.cw := rfl
@[simp] theorem State.raise_dec (e : ErrCode) : (s.raise e).dec = s.dec := rfl
@[simp] theorem State.raise_peakIdx (e : ErrCode) : (s.raise e).peakIdx = s.peakIdx := rfl
@[simp] theorem State.raise_peakVal (e : ErrCode) : (s.raise e).peakVal = s.peakVal := rfl
@[simp] theorem State.raise_kres (e : ErrCode) : (s.raise e).kres = s.kres := rfl
@[simp] theorem State.raise_corr (e : ErrCode) : (s.raise e).corr = s.corr := rfl
@[simp] theorem State.raise_hosts (e : ErrCode) : (s.raise e).hosts = s.hosts := rfl
@[simp] theorem State.raise_schedule (e : ErrCode) : (s.raise e).schedule = s.schedule := rfl
@[simp] theorem State.raise_n (e : ErrCode) : (s.raise e).n = s.n := rfl
@[simp] theorem State.raise_k (e : ErrCode) : (s.raise e).k = s.k := rfl

/-! ### `State.succeed` -/

@[simp] theorem State.succeed_cfg : (s.succeed).cfg = s.cfg := rfl
@[simp] theorem State.succeed_confValid : (s.succeed).confValid = s.confValid := rfl
@[simp] theorem State.succeed_confM : (s.succeed).confM = s.confM := rfl
@[simp] theorem State.succeed_gmat : (s.succeed).gmat = s.gmat := rfl
@[simp] theorem State.succeed_inflight : (s.succeed).inflight = none := rfl
@[simp] theorem State.succeed_overrun : (s.succeed).overrun = s.overrun := rfl
@[simp] theorem State.succeed_err : (s.succeed).err = .none := rfl
@[simp] theorem State.succeed_msg : (s.succeed).msg = s.msg := rfl
@[simp] theorem State.succeed_rcv : (s.succeed).rcv = s.rcv := rfl
@[simp] theorem State.succeed_cw : (s.succeed).cw = s.cw := rfl
@[simp] theorem State.succeed_dec : (s.succeed).dec = s.dec := rfl
@[simp] theorem State.succeed_peakIdx : (s.succeed).peakIdx = s.peakIdx := rfl
@[simp] theorem State.succeed_peakVal : (s.succeed).peakVal = s.peakVal := rfl
@[simp] theorem State.succeed_kres : (s.succeed).kres = s.kres := rfl
@[simp] theorem State.succeed_corr : (s.succeed).corr = s.corr := rfl
@[simp] theorem State.succeed_hosts : (s.succeed).hosts = s.hosts := rfl
@[simp] theorem State.succeed_schedule : (s.succeed).schedule = s.schedule := rfl
@[simp] theorem State.succeed_n : (s.succeed).n = s.n := rfl
@[simp] theorem State.succeed_k : (s.succeed).k = s.k := rfl

/-! ### `State.configure` -/

@[simp] theorem State.configure_cfg (m : Nat) : (s.configure m).cfg = s.cfg := rfl
@[simp] theorem State.configure_confValid (m : Nat) : (s.configure m).confValid = true := rfl
@[simp] theorem State.configure_confM (m : Nat) : (s.configure m).confM = m := rfl
@[simp] theorem State.configure_gmat (m : Nat) : (s.configure m).gmat = gen m := rfl
@[simp] theorem State.configure_inflight (m : Nat) : (s.configure m).inflight = s.inflight := rfl
@[simp] theorem State.configure_overrun (m : Nat) : (s.configure m).overrun = s.overrun := rfl
@[simp] theorem State.configure_err (m : Nat) : (s.configure m).err = s.err := rfl
@[simp] theorem State.configure_msg (m : Nat) : (s.configure m).msg = s.msg := rfl
@[simp] theorem State.configure_rcv (m : Nat) : (s.configure m).rcv = s.rcv := rfl
@[simp] theorem State.configure_cw (m : Nat) : (s.configure m).cw = s.cw := rfl
@[simp] theorem State.configure_dec (m : Nat) : (s.configure m).dec = s.dec := rfl
@[simp] theorem State.configure_peakIdx (m : Nat) : (s.configure m).peakIdx = s.peakIdx := rfl
@[simp] theorem State.configure_peakVal (m : Nat) : (s.configure m).peakVal = s.peakVal := rfl
@[simp] theorem State.configure_kres (m : Nat) : (s.configure m).kres = s.kres := rfl
@[simp] theorem State.configure_corr (m : Nat) : (s.configure m).corr = s.corr := rfl
@[simp] theorem State.configure_hosts (m : Nat) : (s.configure m).hosts = s.hosts := rfl
@[simp] theorem State.configure_schedule (m : Nat) : (s.configure m).schedule = s.schedule := rfl
@[simp] theorem State.configure_n (m : Nat) : (s.configure m).n = 2 ^ m := rfl
@[simp] theorem State.configure_k (m : Nat) : (s.configure m).k = m + 1 := rfl

/-! ### `State.clearResults` -/

@[simp] theorem State.clearResults_cfg : (s.clearResults).cfg = s.cfg := rfl
@[simp] theorem State.clearResults_confValid : (s.clearResults).confValid = s.confValid := rfl
@[simp] theorem State.clearResults_confM : (s.clearResults).confM = s.confM := rfl
@[simp] theorem State.clearResults_gmat : (s.clearResults).gmat = s.gmat := rfl
@[simp] theorem State.clearResults_inflight : (s.clearResults).inflight = s.inflight := rfl
@[simp] theorem State.clearResults_overrun : (s.clearResults).overrun = s.overrun := rfl
@[simp] theorem State.clearResults_err : (s.clearResults).err = s.err := rfl
@[simp] theorem State.clearResults_msg : (s.clearResults).msg = s.msg := rfl
@[simp] theorem State.clearResults_rcv : (s.clearResults).rcv = s.rcv := rfl
@[simp] theorem State.clearResults_cw : (s.clearResults).cw = 0 := rfl
@[simp] theorem State.clearResults_dec : (s.clearResults).dec = 0 := rfl
@[simp] theorem State.clearResults_peakIdx : (s.clearResults).peakIdx = 0 := rfl
@[simp] theorem State.clearResults_peakVal : (s.clearResults).peakVal = 0 := rfl
@[simp] theorem State.clearResults_kres : (s.clearResults).kres = 0 := rfl
@[simp] theorem State.clearResults_corr : (s.clearResults).corr = zeroCorr := rfl
@[simp] theorem State.clearResults_hosts : (s.clearResults).hosts = s.hosts := rfl
@[simp] theorem State.clearResults_schedule : (s.clearResults).schedule = s.schedule := rfl
@[simp] theorem State.clearResults_n : (s.clearResults).n = s.n := rfl
@[simp] theorem State.clearResults_k : (s.clearResults).k = s.k := rfl

/-! ### `State.writeDecode` -/

@[simp] theorem State.writeDecode_cfg (w : List Int) : (s.writeDecode w).cfg = s.cfg := rfl
@[simp] theorem State.writeDecode_confValid (w : List Int) : (s.writeDecode w).confValid = s.confValid := rfl
@[simp] theorem State.writeDecode_confM (w : List Int) : (s.writeDecode w).confM = s.confM := rfl
@[simp] theorem State.writeDecode_gmat (w : List Int) : (s.writeDecode w).gmat = s.gmat := rfl
@[simp] theorem State.writeDecode_inflight (w : List Int) : (s.writeDecode w).inflight = s.inflight := rfl
@[simp] theorem State.writeDecode_overrun (w : List Int) : (s.writeDecode w).overrun = s.overrun := rfl
@[simp] theorem State.writeDecode_err (w : List Int) : (s.writeDecode w).err = s.err := rfl
@[simp] theorem State.writeDecode_msg (w : List Int) : (s.writeDecode w).msg = s.msg := rfl
@[simp] theorem State.writeDecode_rcv (w : List Int) : (s.writeDecode w).rcv = s.rcv := rfl
@[simp] theorem State.writeDecode_cw (w : List Int) : (s.writeDecode w).cw = s.cw := rfl
@[simp] theorem State.writeDecode_dec (w : List Int) : (s.writeDecode w).dec = recover s.confM w (peak s.n w) := rfl
@[simp] theorem State.writeDecode_peakIdx (w : List Int) : (s.writeDecode w).peakIdx = zext64 (peak s.n w) := rfl
@[simp] theorem State.writeDecode_peakVal (w : List Int) : (s.writeDecode w).peakVal = sext64 (entry w (peak s.n w)) := rfl
@[simp] theorem State.writeDecode_kres (w : List Int) : (s.writeDecode w).kres = s.kres := rfl
@[simp] theorem State.writeDecode_corr (w : List Int) : (s.writeDecode w).corr = corrOf s.n w := rfl
@[simp] theorem State.writeDecode_hosts (w : List Int) : (s.writeDecode w).hosts = s.hosts := rfl
@[simp] theorem State.writeDecode_schedule (w : List Int) : (s.writeDecode w).schedule = s.schedule := rfl
@[simp] theorem State.writeDecode_n (w : List Int) : (s.writeDecode w).n = s.n := rfl
@[simp] theorem State.writeDecode_k (w : List Int) : (s.writeDecode w).k = s.k := rfl

/-! ### `State.setHost` -/

@[simp] theorem State.setHost_cfg (h : Nat) (b : BusHost) : (s.setHost h b).cfg = s.cfg := rfl
@[simp] theorem State.setHost_confValid (h : Nat) (b : BusHost) : (s.setHost h b).confValid = s.confValid := rfl
@[simp] theorem State.setHost_confM (h : Nat) (b : BusHost) : (s.setHost h b).confM = s.confM := rfl
@[simp] theorem State.setHost_gmat (h : Nat) (b : BusHost) : (s.setHost h b).gmat = s.gmat := rfl
@[simp] theorem State.setHost_inflight (h : Nat) (b : BusHost) : (s.setHost h b).inflight = s.inflight := rfl
@[simp] theorem State.setHost_overrun (h : Nat) (b : BusHost) : (s.setHost h b).overrun = s.overrun := rfl
@[simp] theorem State.setHost_err (h : Nat) (b : BusHost) : (s.setHost h b).err = s.err := rfl
@[simp] theorem State.setHost_msg (h : Nat) (b : BusHost) : (s.setHost h b).msg = s.msg := rfl
@[simp] theorem State.setHost_rcv (h : Nat) (b : BusHost) : (s.setHost h b).rcv = s.rcv := rfl
@[simp] theorem State.setHost_cw (h : Nat) (b : BusHost) : (s.setHost h b).cw = s.cw := rfl
@[simp] theorem State.setHost_dec (h : Nat) (b : BusHost) : (s.setHost h b).dec = s.dec := rfl
@[simp] theorem State.setHost_peakIdx (h : Nat) (b : BusHost) : (s.setHost h b).peakIdx = s.peakIdx := rfl
@[simp] theorem State.setHost_peakVal (h : Nat) (b : BusHost) : (s.setHost h b).peakVal = s.peakVal := rfl
@[simp] theorem State.setHost_kres (h : Nat) (b : BusHost) : (s.setHost h b).kres = s.kres := rfl
@[simp] theorem State.setHost_corr (h : Nat) (b : BusHost) : (s.setHost h b).corr = s.corr := rfl
@[simp] theorem State.setHost_hosts (h : Nat) (b : BusHost) : (s.setHost h b).hosts = s.hosts.set h b := rfl
@[simp] theorem State.setHost_schedule (h : Nat) (b : BusHost) : (s.setHost h b).schedule = s.schedule := rfl
@[simp] theorem State.setHost_n (h : Nat) (b : BusHost) : (s.setHost h b).n = s.n := rfl
@[simp] theorem State.setHost_k (h : Nat) (b : BusHost) : (s.setHost h b).k = s.k := rfl

/-! ### `State.popTurn` -/

@[simp] theorem State.popTurn_cfg : (s.popTurn).cfg = s.cfg := rfl
@[simp] theorem State.popTurn_confValid : (s.popTurn).confValid = s.confValid := rfl
@[simp] theorem State.popTurn_confM : (s.popTurn).confM = s.confM := rfl
@[simp] theorem State.popTurn_gmat : (s.popTurn).gmat = s.gmat := rfl
@[simp] theorem State.popTurn_inflight : (s.popTurn).inflight = s.inflight := rfl
@[simp] theorem State.popTurn_overrun : (s.popTurn).overrun = s.overrun := rfl
@[simp] theorem State.popTurn_err : (s.popTurn).err = s.err := rfl
@[simp] theorem State.popTurn_msg : (s.popTurn).msg = s.msg := rfl
@[simp] theorem State.popTurn_rcv : (s.popTurn).rcv = s.rcv := rfl
@[simp] theorem State.popTurn_cw : (s.popTurn).cw = s.cw := rfl
@[simp] theorem State.popTurn_dec : (s.popTurn).dec = s.dec := rfl
@[simp] theorem State.popTurn_peakIdx : (s.popTurn).peakIdx = s.peakIdx := rfl
@[simp] theorem State.popTurn_peakVal : (s.popTurn).peakVal = s.peakVal := rfl
@[simp] theorem State.popTurn_kres : (s.popTurn).kres = s.kres := rfl
@[simp] theorem State.popTurn_corr : (s.popTurn).corr = s.corr := rfl
@[simp] theorem State.popTurn_hosts : (s.popTurn).hosts = s.hosts := rfl
@[simp] theorem State.popTurn_schedule : (s.popTurn).schedule = s.schedule.tail := rfl
@[simp] theorem State.popTurn_n : (s.popTurn).n = s.n := rfl
@[simp] theorem State.popTurn_k : (s.popTurn).k = s.k := rfl

/-! ### `State.resetBlock` -/

@[simp] theorem State.resetBlock_cfg : (s.resetBlock).cfg = s.cfg := rfl
@[simp] theorem State.resetBlock_confValid : (s.resetBlock).confValid = false := rfl
@[simp] theorem State.resetBlock_confM : (s.resetBlock).confM = 0 := rfl
@[simp] theorem State.resetBlock_gmat : (s.resetBlock).gmat = [] := rfl
@[simp] theorem State.resetBlock_inflight : (s.resetBlock).inflight = none := rfl
@[simp] theorem State.resetBlock_overrun : (s.resetBlock).overrun = false := rfl
@[simp] theorem State.resetBlock_err : (s.resetBlock).err = .none := rfl
@[simp] theorem State.resetBlock_msg : (s.resetBlock).msg = 0 := rfl
@[simp] theorem State.resetBlock_rcv : (s.resetBlock).rcv = 0 := rfl
@[simp] theorem State.resetBlock_cw : (s.resetBlock).cw = 0 := rfl
@[simp] theorem State.resetBlock_dec : (s.resetBlock).dec = 0 := rfl
@[simp] theorem State.resetBlock_peakIdx : (s.resetBlock).peakIdx = 0 := rfl
@[simp] theorem State.resetBlock_peakVal : (s.resetBlock).peakVal = 0 := rfl
@[simp] theorem State.resetBlock_kres : (s.resetBlock).kres = 0 := rfl
@[simp] theorem State.resetBlock_corr : (s.resetBlock).corr = zeroCorr := rfl
@[simp] theorem State.resetBlock_hosts : (s.resetBlock).hosts = s.hosts := rfl
@[simp] theorem State.resetBlock_schedule : (s.resetBlock).schedule = s.schedule := rfl
@[simp] theorem State.resetBlock_n : (s.resetBlock).n = 1 := rfl
@[simp] theorem State.resetBlock_k : (s.resetBlock).k = 1 := rfl

/-! ### Register writes: a host write reaches only INFLIGHT, OVERRUN, MSG and RCV (spec/20_memory.md R67) -/

@[simp] theorem State.writeCmd_cfg (v : Word) : (s.writeCmd v).cfg = s.cfg := by
  unfold State.writeCmd; split <;> rfl
@[simp] theorem State.writeCmd_confValid (v : Word) : (s.writeCmd v).confValid = s.confValid := by
  unfold State.writeCmd; split <;> rfl
@[simp] theorem State.writeCmd_confM (v : Word) : (s.writeCmd v).confM = s.confM := by
  unfold State.writeCmd; split <;> rfl
@[simp] theorem State.writeCmd_gmat (v : Word) : (s.writeCmd v).gmat = s.gmat := by
  unfold State.writeCmd; split <;> rfl
@[simp] theorem State.writeCmd_err (v : Word) : (s.writeCmd v).err = s.err := by
  unfold State.writeCmd; split <;> rfl
@[simp] theorem State.writeCmd_msg (v : Word) : (s.writeCmd v).msg = s.msg := by
  unfold State.writeCmd; split <;> rfl
@[simp] theorem State.writeCmd_rcv (v : Word) : (s.writeCmd v).rcv = s.rcv := by
  unfold State.writeCmd; split <;> rfl
@[simp] theorem State.writeCmd_cw (v : Word) : (s.writeCmd v).cw = s.cw := by
  unfold State.writeCmd; split <;> rfl
@[simp] theorem State.writeCmd_dec (v : Word) : (s.writeCmd v).dec = s.dec := by
  unfold State.writeCmd; split <;> rfl
@[simp] theorem State.writeCmd_peakIdx (v : Word) : (s.writeCmd v).peakIdx = s.peakIdx := by
  unfold State.writeCmd; split <;> rfl
@[simp] theorem State.writeCmd_peakVal (v : Word) : (s.writeCmd v).peakVal = s.peakVal := by
  unfold State.writeCmd; split <;> rfl
@[simp] theorem State.writeCmd_kres (v : Word) : (s.writeCmd v).kres = s.kres := by
  unfold State.writeCmd; split <;> rfl
@[simp] theorem State.writeCmd_corr (v : Word) : (s.writeCmd v).corr = s.corr := by
  unfold State.writeCmd; split <;> rfl
@[simp] theorem State.writeCmd_hosts (v : Word) : (s.writeCmd v).hosts = s.hosts := by
  unfold State.writeCmd; split <;> rfl
@[simp] theorem State.writeCmd_schedule (v : Word) : (s.writeCmd v).schedule = s.schedule := by
  unfold State.writeCmd; split <;> rfl
@[simp] theorem State.writeStatus_cfg (v : Word) : (s.writeStatus v).cfg = s.cfg := by
  unfold State.writeStatus; split <;> rfl
@[simp] theorem State.writeStatus_confValid (v : Word) : (s.writeStatus v).confValid = s.confValid := by
  unfold State.writeStatus; split <;> rfl
@[simp] theorem State.writeStatus_confM (v : Word) : (s.writeStatus v).confM = s.confM := by
  unfold State.writeStatus; split <;> rfl
@[simp] theorem State.writeStatus_gmat (v : Word) : (s.writeStatus v).gmat = s.gmat := by
  unfold State.writeStatus; split <;> rfl
@[simp] theorem State.writeStatus_inflight (v : Word) : (s.writeStatus v).inflight = s.inflight := by
  unfold State.writeStatus; split <;> rfl
@[simp] theorem State.writeStatus_err (v : Word) : (s.writeStatus v).err = s.err := by
  unfold State.writeStatus; split <;> rfl
@[simp] theorem State.writeStatus_msg (v : Word) : (s.writeStatus v).msg = s.msg := by
  unfold State.writeStatus; split <;> rfl
@[simp] theorem State.writeStatus_rcv (v : Word) : (s.writeStatus v).rcv = s.rcv := by
  unfold State.writeStatus; split <;> rfl
@[simp] theorem State.writeStatus_cw (v : Word) : (s.writeStatus v).cw = s.cw := by
  unfold State.writeStatus; split <;> rfl
@[simp] theorem State.writeStatus_dec (v : Word) : (s.writeStatus v).dec = s.dec := by
  unfold State.writeStatus; split <;> rfl
@[simp] theorem State.writeStatus_peakIdx (v : Word) : (s.writeStatus v).peakIdx = s.peakIdx := by
  unfold State.writeStatus; split <;> rfl
@[simp] theorem State.writeStatus_peakVal (v : Word) : (s.writeStatus v).peakVal = s.peakVal := by
  unfold State.writeStatus; split <;> rfl
@[simp] theorem State.writeStatus_kres (v : Word) : (s.writeStatus v).kres = s.kres := by
  unfold State.writeStatus; split <;> rfl
@[simp] theorem State.writeStatus_corr (v : Word) : (s.writeStatus v).corr = s.corr := by
  unfold State.writeStatus; split <;> rfl
@[simp] theorem State.writeStatus_hosts (v : Word) : (s.writeStatus v).hosts = s.hosts := by
  unfold State.writeStatus; split <;> rfl
@[simp] theorem State.writeStatus_schedule (v : Word) : (s.writeStatus v).schedule = s.schedule := by
  unfold State.writeStatus; split <;> rfl
@[simp] theorem State.writeReg_cfg (r : Reg) (v : Word) : (s.writeReg r v).cfg = s.cfg := by
  cases r <;> simp [State.writeReg]
@[simp] theorem State.writeReg_confValid (r : Reg) (v : Word) : (s.writeReg r v).confValid = s.confValid := by
  cases r <;> simp [State.writeReg]
@[simp] theorem State.writeReg_confM (r : Reg) (v : Word) : (s.writeReg r v).confM = s.confM := by
  cases r <;> simp [State.writeReg]
@[simp] theorem State.writeReg_gmat (r : Reg) (v : Word) : (s.writeReg r v).gmat = s.gmat := by
  cases r <;> simp [State.writeReg]
@[simp] theorem State.writeReg_err (r : Reg) (v : Word) : (s.writeReg r v).err = s.err := by
  cases r <;> simp [State.writeReg]
@[simp] theorem State.writeReg_cw (r : Reg) (v : Word) : (s.writeReg r v).cw = s.cw := by
  cases r <;> simp [State.writeReg]
@[simp] theorem State.writeReg_dec (r : Reg) (v : Word) : (s.writeReg r v).dec = s.dec := by
  cases r <;> simp [State.writeReg]
@[simp] theorem State.writeReg_peakIdx (r : Reg) (v : Word) : (s.writeReg r v).peakIdx = s.peakIdx := by
  cases r <;> simp [State.writeReg]
@[simp] theorem State.writeReg_peakVal (r : Reg) (v : Word) : (s.writeReg r v).peakVal = s.peakVal := by
  cases r <;> simp [State.writeReg]
@[simp] theorem State.writeReg_kres (r : Reg) (v : Word) : (s.writeReg r v).kres = s.kres := by
  cases r <;> simp [State.writeReg]
@[simp] theorem State.writeReg_corr (r : Reg) (v : Word) : (s.writeReg r v).corr = s.corr := by
  cases r <;> simp [State.writeReg]
@[simp] theorem State.writeReg_hosts (r : Reg) (v : Word) : (s.writeReg r v).hosts = s.hosts := by
  cases r <;> simp [State.writeReg]
@[simp] theorem State.writeReg_schedule (r : Reg) (v : Word) : (s.writeReg r v).schedule = s.schedule := by
  cases r <;> simp [State.writeReg]

end Sys2Proof.Machine
end

