-- ==== Sys2Proof/Laws/Ops.lean ====
section
/-! SUPPORT. One lemma per shared operation, saying everything it can do. -/

namespace Sys2Proof.Machine

/-- A meaning answers a next state exactly when a command is in flight. -/
theorem onLatch_eq_next_iff {s t : State} {f : Latch → State} :
    onLatch s f = .next t ↔ ∃ l, s.inflight = some l ∧ t = f l := by
  unfold onLatch
  cases h : s.inflight <;> simp [eq_comm]

@[simp] theorem onLatch_some {s : State} {f : Latch → State} {l : Latch} (h : s.inflight = some l) :
    onLatch s f = .next (f l) := by
  simp [onLatch, h]

@[simp] theorem onLatch_none {s : State} {f : Latch → State} (h : s.inflight = none) :
    onLatch s f = .refused .nothingInFlight := by
  simp [onLatch, h]

/-- A bus access is legal exactly when it is an aligned 64-bit access in the window (R61 to R64). -/
theorem accessOffset_eq_next_iff {c : Config} {addr count off : Nat} :
    accessOffset c addr count = .next off ↔
      addr = c.base + off ∧ off < 4096 ∧ off % 8 = 0 ∧ count = 8 := by
  unfold accessOffset
  split
  · simp; omega
  · split
    · simp; omega
    · split
      · simp; omega
      · simp; omega

theorem accessOffset_window {c : Config} {off : Nat} (h₁ : off < 4096) (h₂ : off % 8 = 0) :
    accessOffset c (c.base + off) 8 = .next off :=
  accessOffset_eq_next_iff.2 ⟨rfl, h₁, h₂, rfl⟩

/-- A write of CMD issues or overruns (R24, R25). -/
theorem State.writeCmd_cases (s : State) (v : Word) :
    (s.inflight = none ∧
      s.writeCmd v = { s with inflight := some { cmd := v, msg := s.msg, rcv := s.rcv } }) ∨
    (s.inflight ≠ none ∧ s.writeCmd v = { s with overrun := true }) := by
  unfold State.writeCmd
  cases h : s.inflight <;> simp

/-- A command in flight stays in flight, unchanged, whatever a host writes (R25, R72). -/
theorem State.writeReg_inflight {s : State} {l : Latch} (h : s.inflight = some l) (r : Reg) (v : Word) :
    (s.writeReg r v).inflight = some l := by
  cases r <;> simp [State.writeReg, State.writeCmd, State.writeStatus, h]
  split <;> simp [h]

/-- What a host write can do: one of the four reactions of R67, or nothing. -/
theorem State.writeReg_cases (s : State) (r : Reg) (v : Word) :
    s.writeReg r v = s ∨ s.writeReg r v = { s with overrun := true } ∨ s.writeReg r v = { s with overrun := false } ∨
      s.writeReg r v = { s with msg := v } ∨ s.writeReg r v = { s with rcv := v } ∨
      (s.inflight = none ∧
        s.writeReg r v = { s with inflight := some { cmd := v, msg := s.msg, rcv := s.rcv } }) := by
  cases r <;> simp only [State.writeReg, true_or, or_true]
  · rcases s.writeCmd_cases v with ⟨h, e⟩ | ⟨-, e⟩ <;> simp_all
  · unfold State.writeStatus
    split <;> simp

/-- A bus read that answers: the bytes of one register (R66). -/
theorem busRead_eq_next_iff {s : State} {addr count : Nat} {bs : List Byte} :
    busRead s addr count = .next bs ↔
      ∃ off, addr = s.cfg.base + off ∧ off < 4096 ∧ off % 8 = 0 ∧ count = 8 ∧
        bs = bytesOfWord (s.readReg (Reg.ofOffset off)) := by
  unfold busRead
  cases h : accessOffset s.cfg addr count with
  | next off =>
    have h' := accessOffset_eq_next_iff.1 h
    simp only [Host.Outcome.next.injEq]
    constructor
    · rintro rfl; exact ⟨off, h'.1, h'.2.1, h'.2.2.1, h'.2.2.2, rfl⟩
    · rintro ⟨off', ha, -, -, -, rfl⟩
      rw [show off = off' by omega]
  | fault f =>
    simp only [reduceCtorEq, false_iff]
    rintro ⟨off, ha, h₁, h₂, hc, -⟩
    rw [accessOffset_eq_next_iff.2 ⟨ha, h₁, h₂, hc⟩] at h
    cases h
  | refused r =>
    simp only [reduceCtorEq, false_iff]
    rintro ⟨off, ha, h₁, h₂, hc, -⟩
    rw [accessOffset_eq_next_iff.2 ⟨ha, h₁, h₂, hc⟩] at h
    cases h

/-- A bus write that answers: the effect of one register write (R67). -/
theorem busWrite_eq_next_iff {s t : State} {addr : Nat} {data : List Byte} :
    busWrite s addr data = .next t ↔
      ∃ off, addr = s.cfg.base + off ∧ off < 4096 ∧ off % 8 = 0 ∧ data.length = 8 ∧
        t = s.writeReg (Reg.ofOffset off) (wordOfBytes data) := by
  unfold busWrite
  cases h : accessOffset s.cfg addr data.length with
  | next off =>
    have h' := accessOffset_eq_next_iff.1 h
    simp only [Host.Outcome.next.injEq]
    constructor
    · rintro rfl; exact ⟨off, h'.1, h'.2.1, h'.2.2.1, h'.2.2.2, rfl⟩
    · rintro ⟨off', ha, -, -, -, rfl⟩
      rw [show off = off' by omega]
  | fault f =>
    simp only [reduceCtorEq, false_iff]
    rintro ⟨off, ha, h₁, h₂, hc, -⟩
    rw [accessOffset_eq_next_iff.2 ⟨ha, h₁, h₂, hc⟩] at h
    cases h
  | refused r =>
    simp only [reduceCtorEq, false_iff]
    rintro ⟨off, ha, h₁, h₂, hc, -⟩
    rw [accessOffset_eq_next_iff.2 ⟨ha, h₁, h₂, hc⟩] at h
    cases h

/-- What a turn of a host can do: pass, read (its own record grows, the block stays), or write one register. -/
theorem hostStep_cases {h : Nat} {s t : State} (ht : hostStep h s = .next t) :
    t = s ∨ (∃ b, t = s.setHost h b) ∨
      ∃ b off v, off < 4096 ∧ off % 8 = 0 ∧ t = (s.setHost h b).writeReg (Reg.ofOffset off) v := by
  have hread : ∀ b addr count prog, hostRead s h b addr count prog = .next t → ∃ b', t = s.setHost h b' := by
    intro b addr count prog hr
    unfold hostRead at hr
    cases hb : busRead s addr count <;> simp only [hb, reduceCtorEq, Host.Outcome.next.injEq] at hr
    exact ⟨_, hr.symm⟩
  unfold hostStep at ht
  split at ht
  · exact .inl (by simpa using ht.symm)
  · split at ht
    · exact .inl (by simpa using ht.symm)
    · obtain ⟨off, -, h₁, h₂, -, rfl⟩ := busWrite_eq_next_iff.1 ht
      exact .inr (.inr ⟨_, off, _, h₁, h₂, rfl⟩)
    · exact .inr (.inl (hread _ _ _ _ ht))
    · exact .inr (.inl (hread _ _ _ _ ht))

/-- What a decode does: one of the three errors, or the results of the transformed vector (spec/43_decode.md R170). -/
theorem decodeWith_cases (path : DecPath) (len : Nat) (s : State) (l : Latch) :
    (∃ e, decodeWith path len s l = s.raise e ∧ e ≠ .none) ∨
      (s.confValid = true ∧ len = s.n ∧
        decodeWith path len s l =
          (s.writeDecode (transform path s.confM (bipolar s.n l.rcv))).succeed) := by
  unfold decodeWith
  split
  · exact .inl ⟨_, rfl, by simp⟩
  · split
    · exact .inl ⟨_, rfl, by simp⟩
    · split
      · exact .inl ⟨_, rfl, by simp⟩
      · rename_i h₁ h₂ _
        exact .inr ⟨by simpa using h₁, by simpa using h₂, rfl⟩

/-- What a completed command can do: an error that only sets the code, or one of the four successful effects. -/
theorem exec_eq_next_cases {i : Instr} {s t : State} (h : exec i s = .next t) :
    ∃ l, s.inflight = some l ∧
      ((∃ e, t = s.raise e ∧ e ≠ .none) ∨ (i = .nop ∧ t = s.succeed) ∨
        (∃ m, i = .cfg m ∧ 1 ≤ m ∧ m ≤ s.cfg.mMax ∧ t = ((s.configure m).clearResults).succeed) ∨
        (∃ len, i = .enc len ∧ s.confValid = true ∧ len = s.k ∧ strayBits l.msg s.k = false ∧
          t = State.succeed { s with cw := encodeWith s.gmat s.n s.k l.msg }) ∨
        (∃ path len, (i = .decFht len ∨ i = .decKron len) ∧ s.confValid = true ∧ len = s.n ∧
          t = (s.writeDecode (transform path s.confM (bipolar s.n l.rcv))).succeed) ∨
        (∃ stage row col, i = .kent stage row col ∧ s.confValid = true ∧ 1 ≤ stage ∧ stage ≤ s.confM ∧
          row < s.n ∧ col < s.n ∧ t = State.succeed { s with kres := sext64 (kstage stage row col) })) := by
  cases i with
  | nop =>
    obtain ⟨l, hl, rfl⟩ := onLatch_eq_next_iff.1 h
    exact ⟨l, hl, .inr (.inl ⟨rfl, rfl⟩)⟩
  | cfg m =>
    obtain ⟨l, hl, rfl⟩ := onLatch_eq_next_iff.1 h
    refine ⟨l, hl, ?_⟩
    split
    · exact .inl ⟨_, rfl, by simp⟩
    · exact .inr (.inr (.inl ⟨m, rfl, by omega, by omega, rfl⟩))
  | enc len =>
    obtain ⟨l, hl, rfl⟩ := onLatch_eq_next_iff.1 h
    refine ⟨l, hl, ?_⟩
    split
    · exact .inl ⟨_, rfl, by simp⟩
    · split
      · exact .inl ⟨_, rfl, by simp⟩
      · split
        · exact .inl ⟨_, rfl, by simp⟩
        · rename_i h₁ h₂ h₃
          exact .inr (.inr (.inr (.inl
            ⟨len, rfl, by simpa using h₁, by simpa using h₂, by simpa using h₃, rfl⟩)))
  | decFht len =>
    obtain ⟨l, hl, rfl⟩ := onLatch_eq_next_iff.1 h
    refine ⟨l, hl, ?_⟩
    rcases decodeWith_cases .fht len s l with ⟨e, he, hne⟩ | ⟨hv, hlen, he⟩
    · exact .inl ⟨e, he, hne⟩
    · exact .inr (.inr (.inr (.inr (.inl ⟨.fht, len, .inl rfl, hv, hlen, he⟩))))
  | decKron len =>
    obtain ⟨l, hl, rfl⟩ := onLatch_eq_next_iff.1 h
    refine ⟨l, hl, ?_⟩
    rcases decodeWith_cases .kron len s l with ⟨e, he, hne⟩ | ⟨hv, hlen, he⟩
    · exact .inl ⟨e, he, hne⟩
    · exact .inr (.inr (.inr (.inr (.inl ⟨.kron, len, .inr rfl, hv, hlen, he⟩))))
  | kent stage row col =>
    obtain ⟨l, hl, rfl⟩ := onLatch_eq_next_iff.1 h
    refine ⟨l, hl, ?_⟩
    split
    · exact .inl ⟨_, rfl, by simp⟩
    · split
      · exact .inl ⟨_, rfl, by simp⟩
      · rename_i h₁ h₂
        exact .inr (.inr (.inr (.inr (.inr
          ⟨stage, row, col, rfl, by simpa using h₁, by omega, by omega, by omega, by omega, rfl⟩))))

/-- What a turn of the engine can do: pass while idle, or complete the latched value. -/
theorem engineStep_cases {s t : State} (h : engineStep s = .next t) :
    (s.inflight = none ∧ t = s) ∨
      ∃ l, s.inflight = some l ∧
        ((∃ i, decode l.cmd = .ok i ∧ exec i s = .next t) ∨
          (∃ r, decode l.cmd = .error r ∧ t = s.raise .illegalCommand)) := by
  unfold engineStep at h
  cases hl : s.inflight with
  | none => simp only [hl, Host.Outcome.next.injEq] at h; exact .inl ⟨rfl, h.symm⟩
  | some l =>
    simp only [hl, complete] at h
    refine .inr ⟨l, rfl, ?_⟩
    cases hd : decode l.cmd with
    | ok i => simp only [hd] at h; exact .inl ⟨i, rfl, h⟩
    | error r =>
      simp only [hd, onLatch_some hl, Host.Outcome.next.injEq] at h
      exact .inr ⟨r, rfl, h.symm⟩

/-- What a step can do: nothing at the end of the run, or one agent's turn. -/
theorem step_cases {s t : State} (h : step s = .next t) :
    (s.nextTurn = none ∧ t = s) ∨ ∃ a, s.nextTurn = some a ∧ takeTurn a s.popTurn = .next t := by
  unfold step at h
  cases hn : s.nextTurn with
  | none => simp only [hn, Host.Outcome.next.injEq] at h; exact .inl ⟨rfl, h.symm⟩
  | some a => simp only [hn] at h; exact .inr ⟨a, rfl, h⟩

end Sys2Proof.Machine
end

