-- ==== Sys2Proof/Laws/PerInstr.lean ====
section
/-! SUPPORT. The per-command law EncodedRow: the word of a well-formed command selects its own row of the opcode map
(spec/30_encoding.md R87), so every bit the format shows as 0 is 0 in it (R89). One lemma per constructor. -/

namespace Sys2Proof.Laws.EncodedRow

/-- The row of the command's own name is in the map and its word selects it. -/
def Statement (i : Instr) : Prop :=
  i.wellFormed = true → ∃ r ∈ opcodeMap, r.op = i.op ∧ r.selectedBy (encode i) = true

theorem nop : Statement .nop := fun _ => ⟨⟨.nop, 0x00000000, 0xFFFFFFFF⟩, by decide, rfl, by decide⟩

theorem cfg (m : Nat) : Statement (.cfg m) := by
  intro h
  have hm : m ≤ 15 := by simpa [Instr.wellFormed] using h
  refine ⟨⟨.cfg, 0x00000001, 0xFFFFF0FF⟩, by decide, rfl, ?_⟩
  interval_cases m <;> decide

theorem enc (len : Nat) : Statement (.enc len) := by
  intro h
  have hl : len ≤ 127 := by simpa [Instr.wellFormed] using h
  refine ⟨⟨.enc, 0x00000002, 0xFFFF80FF⟩, by decide, rfl, ?_⟩
  have : ∀ l : Fin 128, OpcodeRow.selectedBy ⟨.enc, 0x00000002, 0xFFFF80FF⟩ (encode (.enc l)) = true := by decide
  exact this ⟨len, by omega⟩

theorem decFht (len : Nat) : Statement (.decFht len) := by
  intro h
  have hl : len ≤ 127 := by simpa [Instr.wellFormed] using h
  refine ⟨⟨.decFht, 0x00000003, 0xFFFF80FF⟩, by decide, rfl, ?_⟩
  have : ∀ l : Fin 128, OpcodeRow.selectedBy ⟨.decFht, 0x00000003, 0xFFFF80FF⟩ (encode (.decFht l)) = true := by
    decide
  exact this ⟨len, by omega⟩

theorem decKron (len : Nat) : Statement (.decKron len) := by
  intro h
  have hl : len ≤ 127 := by simpa [Instr.wellFormed] using h
  refine ⟨⟨.decKron, 0x00000013, 0xFFFF80FF⟩, by decide, rfl, ?_⟩
  have : ∀ l : Fin 128, OpcodeRow.selectedBy ⟨.decKron, 0x00000013, 0xFFFF80FF⟩ (encode (.decKron l)) = true := by
    decide
  exact this ⟨len, by omega⟩

theorem kent (stage row col : Nat) : Statement (.kent stage row col) := by
  intro h
  have h' : (stage ≤ 15 ∧ row ≤ 63) ∧ col ≤ 63 := by simpa [Instr.wellFormed] using h
  have hs : ∀ j, 4 ≤ j → stage.testBit j = false := fun j hj =>
    Nat.testBit_lt_two_pow (Nat.lt_of_lt_of_le (by omega : stage < 2 ^ 4) (Nat.pow_le_pow_right (by omega) hj))
  have hr : ∀ j, 6 ≤ j → row.testBit j = false := fun j hj =>
    Nat.testBit_lt_two_pow (Nat.lt_of_lt_of_le (by omega : row < 2 ^ 6) (Nat.pow_le_pow_right (by omega) hj))
  have hc : ∀ j, 6 ≤ j → col.testBit j = false := fun j hj =>
    Nat.testBit_lt_two_pow (Nat.lt_of_lt_of_le (by omega : col < 2 ^ 6) (Nat.pow_le_pow_right (by omega) hj))
  refine ⟨⟨.kent, 0x00000004, 0xC0C0F0FF⟩, by decide, rfl, ?_⟩
  simp only [OpcodeRow.selectedBy, encode, Bool.and_eq_true, beq_iff_eq]
  constructor
  · apply BitVec.eq_of_getLsbD_eq
    intro j hj
    simp only [BitVec.truncate_eq_setWidth, BitVec.getLsbD_and, BitVec.getLsbD_setWidth, BitVec.getLsbD_ofNat,
      Nat.testBit_or, Nat.testBit_shiftLeft]
    interval_cases j <;> simp [hs, hr, hc] <;> decide
  · apply BitVec.eq_of_getLsbD_eq
    intro j hj
    have h4 : Nat.testBit 4 (32 + j) = false :=
      Nat.testBit_lt_two_pow (Nat.lt_of_lt_of_le (by decide : 4 < 2 ^ 32) (Nat.pow_le_pow_right (by omega) (by omega)))
    simp only [BitVec.getLsbD_ushiftRight, BitVec.getLsbD_ofNat, Nat.testBit_or, Nat.testBit_shiftLeft, h4,
      hs (32 + j - 8) (by omega), hr (32 + j - 16) (by omega), hc (32 + j - 24) (by omega)]
    simp

end Sys2Proof.Laws.EncodedRow
end

