-- ==== Sys2Proof/Laws/Step.lean ====
section
/-! SUPPORT. Whose turn is next, and runs. -/

namespace Sys2Proof.Machine

/-- The schedule, where it says, decides the next turn. -/
@[simp] theorem State.nextTurn_of_schedule {s : State} {t : Turn} {ts : List Turn} (h : s.schedule = t :: ts) :
    s.nextTurn = some t := by
  simp [State.nextTurn, h]

/-- Past the schedule's end, a command in flight is completed first (spec/70_reset_and_hazards.md R240). -/
theorem State.nextTurn_of_busy {s : State} (h : s.schedule = []) (hb : s.busy = true) :
    s.nextTurn = some .engine := by
  simp [State.nextTurn, h, hb]

/-- Nobody moves exactly at the end of a run (spec/70_reset_and_hazards.md R242, log entry 14), the schedule being used
up. -/
theorem State.nextTurn_eq_none_iff (s : State) :
    s.nextTurn = none ↔ s.schedule = [] ∧ s.finished = true := by
  unfold State.nextTurn State.finished
  cases s.schedule with
  | cons t ts => simp
  | nil =>
    cases hb : s.busy <;> simp [List.findIdx?_eq_none_iff]

/-- A step taken on the schedule's first turn. -/
theorem step_of_schedule {s : State} {t : Turn} {ts : List Turn} (h : s.schedule = t :: ts) :
    step s = takeTurn t s.popTurn := by
  simp [step, State.nextTurn_of_schedule h]

/-- The next step after `withFetchWord` is the engine's, on the word placed. -/
theorem step_withFetchWord (s : State) (nbits w : Nat) :
    step (s.withFetchWord nbits w) =
      complete (BitVec.ofNat 64 (w % 2 ^ nbits))
        { s with inflight := some { cmd := BitVec.ofNat 64 (w % 2 ^ nbits), msg := s.msg, rcv := s.rcv } } := rfl

/-- Only the engine and reset empty the latch, so a turn of a host keeps a command in flight (R25, R42). -/
theorem hostStep_inflight {h : Nat} {s t : State} {l : Latch} (hl : s.inflight = some l)
    (ht : hostStep h s = .next t) : t.inflight = some l := by
  rcases hostStep_cases ht with rfl | ⟨b, rfl⟩ | ⟨b, off, v, -, -, rfl⟩
  · exact hl
  · exact hl
  · exact State.writeReg_inflight (by simpa using hl) _ _

/-- No turn changes the parameters (spec/00_scope.md R4, R5). -/
theorem takeTurn_cfg {a : Turn} {s t : State} (h : takeTurn a s = .next t) : t.cfg = s.cfg := by
  cases a with
  | host i =>
    rcases hostStep_cases h with rfl | ⟨b, rfl⟩ | ⟨b, off, v, -, -, rfl⟩ <;> simp
  | engine =>
    rcases engineStep_cases h with ⟨-, rfl⟩ | ⟨l, -, ⟨i, -, hi⟩ | ⟨r, -, rfl⟩⟩
    · rfl
    · obtain ⟨l, -, ⟨e, rfl, -⟩ | ⟨-, rfl⟩ | ⟨m, -, -, -, rfl⟩ | ⟨len, -, -, -, -, rfl⟩ | ⟨p, len, -, -, -, rfl⟩ |
        ⟨a, b, c, -, -, -, -, -, -, rfl⟩⟩ := exec_eq_next_cases hi <;> simp
    · rfl
  | reset =>
    simp only [takeTurn, Host.Outcome.next.injEq] at h
    simp [← h]

end Sys2Proof.Machine
end

