-- ==== Sys2Proof/Tests/Slice0.lean ====
section
/-! SUPPORT. The model's own tests. Expected values come from spec/95_test_vectors.md (L1, L2), from the spec's
examples, or from command words written out by hand from the formats of spec/30_encoding.md. The `witness_` theorems
show, for each statement with hypotheses, a concrete state that meets them, one for each clause. -/

namespace Sys2Proof.Tests

open Sys2Proof.Machine

/-! ### Helpers -/

/-- The reference block configured for `m`, idle. -/
def configured (m : Nat) : State := { State.reset with confValid := true, confM := m, gmat := gen m }

/-- `s` with a command in flight that has these latched operands. -/
def flying (s : State) (msg rcv : Word) : State := { s with inflight := some { cmd := 0, msg := msg, rcv := rcv } }

/-- `s` with one host that has the operation `op` to do, and its turn next. -/
def hosted (s : State) (op : HostOp) : State :=
  { s with hosts := [{ prog := [op], reads := [] }], schedule := [.host 0] }

/-- Whether the outcome is a next state with this property. -/
def nextHas (o : Host.Outcome State Fault Refusal) (p : State → Bool) : Bool :=
  match o with
  | .next t => p t
  | .fault _ => false
  | .refused _ => false

/-- The CORR entries as integers, the first `n` of them. -/
def corrInts (n : Nat) (s : State) : List Int := (s.corr.toList.take n).map fun w => w.toInt

/-! ### Well-formedness: each check refuses an ill-formed term (spec/30_encoding.md R92) -/

theorem test_wellFormed_refuses_m : (Instr.cfg 16).wellFormed = false := by decide
theorem test_wellFormed_refuses_enc_len : (Instr.enc 128).wellFormed = false := by decide
theorem test_wellFormed_refuses_fht_len : (Instr.decFht 128).wellFormed = false := by decide
theorem test_wellFormed_refuses_kron_len : (Instr.decKron 128).wellFormed = false := by decide
theorem test_wellFormed_refuses_stage : (Instr.kent 16 0 0).wellFormed = false := by decide
theorem test_wellFormed_refuses_row : (Instr.kent 1 64 0).wellFormed = false := by decide
theorem test_wellFormed_refuses_col : (Instr.kent 1 0 64).wellFormed = false := by decide
theorem test_wellFormed_admits_largest_fields : (Instr.kent 15 63 63).wellFormed = true := by decide

/-! ### Decoding: words written out bit by bit from R82 to R85, and the refusals of L2.1 -/

theorem test_decode_nop_word : decode 0b00000000000000000000000000000000 = .ok .nop := by rfl
theorem test_decode_cfg_word : decode 0b00000000000000000000_0011_0000_0001 = .ok (.cfg 3) := by rfl
theorem test_decode_enc_word : decode 0b00000000000000000_0000100_000_0_0010 = .ok (.enc 4) := by rfl
theorem test_decode_decFht_word : decode 0b00000000000000000_0001000_000_0_0011 = .ok (.decFht 8) := by rfl
theorem test_decode_decKron_word : decode 0b00000000000000000_0001000_000_1_0011 = .ok (.decKron 8) := by rfl
theorem test_decode_kent_word : decode 0b00_000111_00_000101_0000_0010_0000_0100 = .ok (.kent 2 5 7) := by rfl

theorem test_decode_refuses_reserved_bits :
    decode 0x10 = .error .reservedBitSet ∧ decode 0x1301 = .error .reservedBitSet ∧
    decode 0x8002 = .error .reservedBitSet ∧ decode 0x412 = .error .reservedBitSet ∧
    decode 0x833 = .error .reservedBitSet ∧ decode 0x40000004 = .error .reservedBitSet ∧
    decode 0x00400004 = .error .reservedBitSet ∧ decode 0x1004 = .error .reservedBitSet := by
  refine ⟨?_, ?_, ?_, ?_, ?_, ?_, ?_, ?_⟩ <;> rfl

theorem test_decode_refuses_reserved_opcodes :
    decode 0x5 = .error .reservedOpcode ∧ decode 0xF = .error .reservedOpcode ∧
    decode 0xFFFFFFFF = .error .reservedOpcode := by
  refine ⟨?_, ?_, ?_⟩ <;> rfl

theorem test_decode_refuses_high_word : decode 0x100000000 = .error .highWordSet := by rfl

/-- The examples of R92. -/
theorem test_encode_examples :
    encode (.cfg 3) = 0x00000301 ∧ encode (.enc 4) = 0x00000402 ∧ encode (.decFht 8) = 0x00000803 ∧
    encode (.decKron 8) = 0x00000813 ∧ encode (.kent 2 5 7) = 0x07050204 := by decide

theorem test_decodeTableWord_kent : decodeTableWord 32 0x3F3F0F04 = some (.kent 15 63 63) := by rfl

/-! ### Assembler (R92, R93) -/

theorem test_assemble_kent_text :
    assembleText ['K', 'E', 'N', 'T', ' ', '2', ',', ' ', '5', ',', ' ', '0', 'x', '7'] = some 0x07050204 := by
  decide

theorem test_assemble_pseudo_dec_text : assembleText ['D', 'E', 'C', ' ', '6', '4'] = some 0x00004003 := by decide

theorem test_assemble_refuses_wide_operand : assembleText ['C', 'F', 'G', ' ', '1', '6'] = none := by decide

/-! ### NOP and CFG (L2.2) -/

/-- L2.2.3: STATUS = 0x402, then NOP, gives STATUS = 0x2. -/
theorem test_nop_clears_the_code :
    nextHas (exec .nop (flying { configured 3 with err := .illegalCommand } 0 0))
      (fun t => t.statusWord == 0x2) = true := by decide

/-- L2.2.1 for m = 3, with a stale CW cleared (L2.2.2). -/
theorem test_cfg_three :
    nextHas (exec (.cfg 3) (flying { configured 2 with cw := 0x3, msg := 0x5 } 0 0)) (fun t =>
      t.statusWord == 0x2 && t.cfgrWord == 0x80403 && t.cw == 0 && t.msg == 0x5 &&
        (List.range 8).map t.growWord == [0xFF, 0xAA, 0xCC, 0xF0, 0, 0, 0, 0]) = true := by decide

/-- L2.2.2, last row: a block with M_MAX = 3 refuses CFG 4. -/
theorem test_cfg_beyond_mMax :
    nextHas (exec (.cfg 4) (flying { State.reset with cfg := { mMax := 3, base := 0 } } 0 0)) (fun t =>
      t.statusWord == 0x200 && t.cfgrWord == 0) = true := by decide

/-- L2.2.1 for m = 5. -/
theorem test_gen_five :
    gen 5 = [0xFFFFFFFF, 0xAAAAAAAA, 0xCCCCCCCC, 0xF0F0F0F0, 0xFF00FF00, 0xFFFF0000] := by decide

/-- L2.2.1 for m = 6, its last row. -/
theorem test_gen_six_last_row : (gen 6)[6]? = some 0xFFFFFFFF00000000 := by rfl

/-! ### ENC (L2.3) -/

theorem test_enc_three :
    nextHas (exec (.enc 4) (flying (configured 3) 0xD 0)) (fun t => t.cw == 0xC3 && t.statusWord == 0x2) = true := by
  decide

theorem test_enc_six : encodeFn 6 0x2A = 0xA5A55A5AA5A55A5A := by decide +kernel

/-- L2.3.3, m = 2: the length check comes before the stray-bit check. -/
theorem test_enc_error_order :
    nextHas (exec (.enc 4) (flying (configured 2) 0x8 0)) (fun t => t.err == .invalidLength) = true ∧
    nextHas (exec (.enc 3) (flying (configured 2) 0x8 0)) (fun t => t.err == .invalidParameter) = true := by
  decide

/-! ### KENT and the transforms (L2.4, L1.1) -/

/-- L2.4.3: entries -1, 0 and 1 for m = 3. -/
theorem test_kent_entries :
    nextHas (exec (.kent 2 7 7) (flying (configured 3) 0 0)) (fun t => t.kres == 0xFFFFFFFFFFFFFFFF) = true ∧
    nextHas (exec (.kent 2 5 6) (flying (configured 3) 0 0)) (fun t => t.kres == 0) = true ∧
    nextHas (exec (.kent 3 1 5) (flying (configured 3) 0 0)) (fun t => t.kres == 1) = true := by decide

theorem test_kent_stage_out_of_range :
    nextHas (exec (.kent 4 0 0) (flying { configured 3 with kres := 1 } 0 0)) (fun t =>
      t.statusWord == 0x202 && t.kres == 1) = true := by decide

/-- R152: Kstage(2, 2) in full. -/
theorem test_kstage_two_two :
    (List.range 4).map (fun a => (List.range 4).map (kstage 2 a)) =
      [[1, 0, 1, 0], [0, 1, 0, 1], [1, 0, -1, 0], [0, 1, 0, -1]] := by decide

/-- R152: Had(2) in full. -/
theorem test_hadamard_two :
    (List.range 4).map (fun a => (List.range 4).map (hadamard 2 a)) =
      [[1, 1, 1, 1], [1, -1, 1, -1], [1, 1, -1, -1], [1, -1, -1, 1]] := by decide

/-- L1.1: the trace of the FHT on the flip of bit 0, stage by stage. -/
theorem test_fht_stages :
    fhtStage 8 1 [1, -1, 1, 1, 1, 1, -1, -1] = [0, 2, 2, 0, 2, 0, -2, 0] ∧
    fhtStage 8 2 [0, 2, 2, 0, 2, 0, -2, 0] = [2, 2, -2, 2, 0, 0, 4, 0] ∧
    fhtStage 8 4 [2, 2, -2, 2, 0, 0, 4, 0] = [2, 2, 2, 2, 2, 2, -6, 2] := by decide

/-! ### DEC.FHT and DEC.KRON (L1.1, L2.5) -/

/-- L1.1: RCV = 0xD3, the flip of bit 4. -/
theorem test_decFht_one_flip :
    nextHas (exec (.decFht 8) (flying (configured 3) 0 0xD3)) (fun t =>
      t.dec == 0xD && t.peakIdx == 6 && t.peakVal.toInt == -6 &&
        corrInts 9 t == [-2, -2, -2, -2, 2, 2, -6, 2, 0]) = true := by decide

/-- L2.5.4: RCV = 0xC5, a tie that the lowest index wins. -/
theorem test_decKron_tie :
    nextHas (exec (.decKron 8) (flying (configured 3) 0 0xC5)) (fun t =>
      t.dec == 0x3 && t.peakIdx == 1 && t.peakVal.toInt == -4 &&
        corrInts 8 t == [0, -4, 4, 0, 0, -4, -4, 0]) = true := by decide

/-- L2.5.6: the length check comes before the stray-bit check. -/
theorem test_dec_error_order :
    nextHas (exec (.decFht 4) (flying (configured 3) 0 0x1C3)) (fun t => t.err == .invalidLength) = true ∧
    nextHas (exec (.decKron 8) (flying (configured 3) 0 0x1C3)) (fun t => t.err == .invalidParameter) = true := by
  decide

/-! ### Registers, host accesses and reset (L2.6) -/

theorem test_id_read : State.reset.readReg (Reg.ofOffset 0x000) = 0x524D314300000106 := by decide

/-- The map of R21: each operand and result register, and CORR[63], read at its own offset. -/
theorem test_registers_read_at_their_offsets :
    [0x020, 0x028, 0x030, 0x038, 0x040, 0x048, 0x050, 0x2F8].map
      (fun off => State.readReg
        { State.reset with
          msg := 1, rcv := 2, cw := 3, dec := 4, peakIdx := 5, peakVal := 6, kres := 7
          corr := Vector.ofFn fun i => BitVec.ofNat 64 i.val } (Reg.ofOffset off)) =
      [1, 2, 3, 4, 5, 6, 7, 63] := by decide

/-- L2.6: WR STATUS <- 0x8 on STATUS = 0x40A gives 0x402. -/
theorem test_status_w1c :
    State.statusWord
      (State.writeReg { configured 3 with overrun := true, err := .illegalCommand } (Reg.ofOffset 0x010) 0x8) =
        0x402 := by decide

/-- L2.6: a CMD write while busy. -/
theorem test_overrun :
    nextHas (step (hosted (flying (configured 3) 0 0xC3) (HostOp.issue Config.reference 0x5))) (fun t =>
      t.statusWord == 0xB && t.inflight == some { cmd := 0, msg := 0, rcv := 0xC3 }) = true := by decide

/-- L2.6, P5: the decode in flight uses the latched RCV although RCV has been overwritten. -/
theorem test_operand_latch :
    nextHas (step { configured 3 with inflight := some { cmd := 0x803, msg := 0, rcv := 0xC3 }, rcv := 0 }) (fun t =>
      t.dec == 0xD && t.rcv == 0 && t.statusWord == 0x2) = true := by decide

/-- L2.6: reset discards the command in flight. -/
theorem test_reset_discards :
    nextHas (step { flying (configured 3) 0 0 with schedule := [.reset] }) (fun t => t == State.reset) = true := by
  decide

/-- L2.1: an ILLEGAL word completes with code 4 also before any CFG. -/
theorem test_illegal_word_completes :
    nextHas (step (State.reset.withFetchWord 32 0x5)) (fun t => t == { State.reset with err := .illegalCommand }) =
      true := by decide

/-- L2.6: a 32-bit access is an access fault (R63). -/
theorem test_narrow_access_faults :
    step (hosted State.reset (.read 0x020 4)) = .fault .accessWidth := by rfl

/-! ### Witnesses: the hypotheses of the statements are met -/

theorem witness_DecodeOfEncodeIsTheCommand : (Instr.kent 15 63 63).wellFormed = true := by decide

theorem witness_EncodeOfDecodeIsTheValue : decode 0x3F3F0F04 = .ok (.kent 15 63 63) := by rfl

/-- A reserved OPC, a set bit of the high word, and the lowest reserved bit of each format. -/
theorem witness_IllegalExactlyOnReservedOpcodeOrBit :
    (∃ r, decode 0x5 = .error r) ∧ (∃ r, decode 0x100000000 = .error r) ∧ (∃ r, decode 0x10 = .error r) ∧
    (∃ r, decode 0x1001 = .error r) ∧ (∃ r, decode 0x12 = .error r) ∧ (∃ r, decode 0x23 = .error r) ∧
    (∃ r, decode 0x400004 = .error r) :=
  ⟨⟨_, rfl⟩, ⟨_, rfl⟩, ⟨_, rfl⟩, ⟨_, rfl⟩, ⟨_, rfl⟩, ⟨_, rfl⟩, ⟨_, rfl⟩⟩

/-- The last GROW and CORR, and both ends of every reserved range. -/
theorem witness_RegisterMapOffsets :
    Reg.ofOffset (0x080 + 8 * 7) = .grow 7 ∧ Reg.ofOffset (0x100 + 8 * 63) = .corr 63 ∧
    Reg.ofOffset 0x058 = .reserved ∧ Reg.ofOffset 0x07F = .reserved ∧ Reg.ofOffset 0x0C0 = .reserved ∧
    Reg.ofOffset 0x0FF = .reserved ∧ Reg.ofOffset 0x300 = .reserved ∧ Reg.ofOffset 0xFFF = .reserved := by decide

/-- Both ends of each reserved range, on a state whose registers are not all 0. -/
theorem witness_CmdAndReservedOffsetsReadZero :
    (0x058 ≤ 0x07F ∧ 0x07F ≤ 0x07F) ∧ (0x0C0 ≤ 0x0FF ∧ 0x0FF ≤ 0x0FF) ∧ (0x300 ≤ 0xFFF ∧ 0xFFF ≤ 0xFFF) ∧
    (flying (configured 3) 1 1).readReg (Reg.ofOffset 0x07F) = 0 ∧
    (flying (configured 3) 1 1).readReg (Reg.ofOffset 0x300) = 0 := by decide

theorem witness_RegistersReadZeroAfterReset :
    (0 < 8 ∧ 8 < 4096 ∧ 8 % 8 = 0) ∧ 0 < 4088 ∧ 4088 < 4096 ∧ 4088 % 8 = 0 := by decide

/-- BUSY, CFG_VALID, OVERRUN and the top bit of ERR, and a reserved bit, in one state. -/
theorem witness_StatusReadsItsFields :
    (flying { configured 3 with overrun := true, err := .illegalCommand } 0 0).readReg .status = 0x40B ∧ 63 < 64 := by
  decide

theorem configInv_configured_six : (configured 6).ConfigInv := ⟨by decide, by decide, by decide⟩

theorem configInv_unconfigured : (flying State.reset 0 0).ConfigInv := ⟨by decide, by decide, by decide⟩

theorem witness_IdAndCfgrReadTheirFields :
    ((configured 6).ConfigInv ∧ (configured 6).confValid = true) ∧
    (flying State.reset 0 0).ConfigInv ∧ (flying State.reset 0 0).confValid = false :=
  ⟨⟨configInv_configured_six, rfl⟩, configInv_unconfigured, rfl⟩

theorem witness_GrowReadsTheGeneratorRows : (configured 6).ConfigInv ∧ 63 < 64 := ⟨configInv_configured_six, by decide⟩

theorem witness_CmdWriteIssuesOrOverruns :
    (configured 3).inflight = none ∧ (flying (configured 3) 0 0).inflight ≠ none := by decide

theorem witness_OperandWritesStoreAndOtherWritesAreIgnored :
    (4088 < 4096 ∧ 4088 % 8 = 0 ∧ 4088 ≠ 0x008 ∧ 4088 ≠ 0x010 ∧ 4088 ≠ 0x020 ∧ 4088 ≠ 0x028) ∧
    (0 < 4096 ∧ 0 % 8 = 0 ∧ 0 ≠ 0x008 ∧ 0 ≠ 0x010 ∧ 0 ≠ 0x020 ∧ 0 ≠ 0x028) := by decide

theorem witness_HostReadReturnsTheRegister :
    (hosted (configured 3) (HostOp.rd Config.reference 0xFF8)).schedule = .host 0 :: [] ∧
    (hosted (configured 3) (HostOp.rd Config.reference 0xFF8)).hosts[0]? =
      some { prog := [HostOp.rd Config.reference 0xFF8], reads := [] } ∧ 0xFF8 < 4096 ∧ 0xFF8 % 8 = 0 ∧ 63 < 64 := by
  decide

theorem witness_HostWriteReachesTheRegister :
    (hosted (configured 3) (HostOp.wr Config.reference 0x020 0xD)).schedule = .host 0 :: [] ∧
    (hosted (configured 3) (HostOp.wr Config.reference 0x020 0xD)).hosts[0]? =
      some { prog := [HostOp.wr Config.reference 0x020 0xD], reads := [] } ∧ 0x020 < 4096 ∧ 0x020 % 8 = 0 := by decide

/-- The three clauses at the window's edges, for a window at 4096. -/
theorem witness_IllegalAccessesStop :
    step (hosted { State.reset with cfg := { mMax := 6, base := 4096 } } (.read 4096 4)) = .fault .accessWidth ∧
    step (hosted { State.reset with cfg := { mMax := 6, base := 4096 } } (.write 8191 [0])) = .fault .accessWidth ∧
    step (hosted { State.reset with cfg := { mMax := 6, base := 4096 } } (.read 8191 8)) = .fault .accessAlignment ∧
    step (hosted { State.reset with cfg := { mMax := 6, base := 4096 } } (.read 4095 8)) = .refused .outsideWindow ∧
    step (hosted { State.reset with cfg := { mMax := 6, base := 4096 } } (.read 8192 8)) = .refused .outsideWindow := by
  refine ⟨?_, ?_, ?_, ?_, ?_⟩ <;> rfl

/-- WAIT on a busy and on an idle block. -/
theorem witness_WaitPollsStatusUntilIdle :
    (hosted (flying (configured 3) 0 0) .wait).schedule = .host 0 :: [] ∧
    (hosted (flying (configured 3) 0 0) .wait).inflight.isSome = true ∧
    (hosted (configured 3) .wait).hosts[0]? = some { prog := [.wait], reads := [] } ∧
    (hosted (configured 3) .wait).inflight.isSome = false := by decide

theorem witness_HostTurnsLeaveResultsAlone :
    ∃ t, hostStep 0 (hosted (configured 3) (HostOp.wr Config.reference 0x020 0xD)) = .next t := ⟨_, rfl⟩

/-- With the engine's turn scheduled, and past the schedule's end. -/
theorem witness_StepRunsTheDecodedCommand :
    ((configured 3).withFetchWord 32 0x803).inflight = some { cmd := 0x803, msg := 0, rcv := 0 } ∧
    decode 0x803 = .ok (.decFht 8) ∧ ((configured 3).withFetchWord 32 0x803).schedule = .engine :: [] ∧
    (flying (configured 3) 0 0).inflight = some { cmd := 0, msg := 0, rcv := 0 } ∧ decode 0 = .ok .nop ∧
    (flying (configured 3) 0 0).schedule = [] := ⟨rfl, rfl, rfl, rfl, rfl, rfl⟩

/-- With the engine's turn scheduled, and past the schedule's end. -/
theorem witness_IllegalCommandWritesOnlyItsCode :
    (State.reset.withFetchWord 32 0xF).inflight = some { cmd := 0xF, msg := 0, rcv := 0 } ∧
    decode 0xF = .error .reservedOpcode ∧ (State.reset.withFetchWord 32 0xF).schedule = .engine :: [] ∧
    ({ State.reset with inflight := some { cmd := 0xF, msg := 0, rcv := 0 } } : State).schedule = [] :=
  ⟨rfl, rfl, rfl, rfl⟩

theorem witness_IdleEngineChangesNothing :
    ({ configured 3 with schedule := [.engine] } : State).inflight = none ∧
    ({ configured 3 with schedule := [.engine] } : State).schedule = .engine :: [] := ⟨rfl, rfl⟩

theorem witness_ResetSetsEveryPieceOfState :
    ({ flying (configured 3) 0 0 with schedule := [.reset] } : State).schedule = .reset :: [] := rfl

/-- A host's turn keeps the latch; the engine's and reset empty it. -/
theorem witness_LatchIsKeptUntilCompletionOrReset :
    nextHas (step (hosted (flying (configured 3) 0 0) .wait)) (fun t => t.inflight.isSome) = true ∧
    nextHas (step (flying (configured 3) 0 0)) (fun t => t.inflight.isNone) = true ∧
    nextHas (step { flying (configured 3) 0 0 with schedule := [.reset] }) (fun t => t.inflight.isNone) = true := by
  decide

theorem witness_CommandInFlightCompletes :
    (hosted (flying (configured 3) 0 0) .wait).inflight = some { cmd := 0, msg := 0, rcv := 0 } ∧
    Turn.reset ∉ (hosted (flying (configured 3) 0 0) .wait).schedule ∧
    (hosted (flying (configured 3) 0 0) .wait).hostsLegal = true := by decide

theorem witness_NopOnlyClearsTheErrorCode : (flying State.reset 0 0).inflight ≠ none := by decide

/-- Both ends of the legal range of m. -/
theorem witness_CfgMakesTheInstanceAndClearsResults :
    (flying State.reset 0 0).inflight ≠ none ∧ 1 ≤ (flying State.reset 0 0).cfg.mMax ∧
    (flying State.reset 0 0).cfg.mMax = 6 := by decide

/-- Both ends of the illegal range of m. -/
theorem witness_CfgOutOfRangeOnlySetsTheErrorCode :
    (flying State.reset 0 0).inflight ≠ none ∧ (flying State.reset 0 0).cfg.mMax < 7 ∧
    nextHas (exec (.cfg 0) (flying State.reset 0 0)) (fun t => t.err == .invalidParameter) = true ∧
    nextHas (exec (.cfg 7) (flying State.reset 0 0)) (fun t => t.err == .invalidParameter) = true := by decide

theorem witness_EncWritesTheCodeword :
    (flying (configured 6) 0x7F 0).inflight = some { cmd := 0, msg := 0x7F, rcv := 0 } ∧
    (flying (configured 6) 0x7F 0).confValid = true ∧ strayBits 0x7F (flying (configured 6) 0x7F 0).k = false := by
  decide

/-- Unconfigured; a length below and above k; a 1 at bit k. -/
theorem witness_EncErrorsInOrder :
    (flying State.reset 0 0).inflight = some { cmd := 0, msg := 0, rcv := 0 } ∧
    (flying (configured 3) 0x10 0).inflight = some { cmd := 0, msg := 0x10, rcv := 0 } ∧
    (flying State.reset 0 0).confValid = false ∧
    ((flying (configured 3) 0x10 0).confValid = true ∧ 3 ≠ (flying (configured 3) 0x10 0).k ∧
      5 ≠ (flying (configured 3) 0x10 0).k) ∧
    4 = (flying (configured 3) 0x10 0).k ∧ strayBits 0x10 (flying (configured 3) 0x10 0).k = true := by decide

theorem witness_KentWritesTheStageEntry :
    (flying (configured 3) 0 0).inflight ≠ none ∧ (flying (configured 3) 0 0).confValid = true ∧ 1 ≤ 3 ∧
    3 ≤ (flying (configured 3) 0 0).confM ∧ 7 < (flying (configured 3) 0 0).n := by decide

/-- Unconfigured; each operand just out of range. -/
theorem witness_KentErrorsInOrder :
    ((flying State.reset 0 0).inflight ≠ none ∧ (flying State.reset 0 0).confValid = false) ∧
    ((flying (configured 3) 0 0).inflight ≠ none ∧ (flying (configured 3) 0 0).confValid = true) ∧ (flying (configured 3) 0 0).confM < 4 ∧
    (flying (configured 3) 0 0).n ≤ 8 ∧
    nextHas (exec (.kent 0 0 0) (flying (configured 3) 0 0)) (fun t => t.err == .invalidParameter) = true ∧
    nextHas (exec (.kent 1 8 0) (flying (configured 3) 0 0)) (fun t => t.err == .invalidParameter) = true ∧
    nextHas (exec (.kent 1 0 8) (flying (configured 3) 0 0)) (fun t => t.err == .invalidParameter) = true := by decide

/-- For m = 3, and for m = 6, where every RCV value is legal. -/
theorem witness_DecFhtWritesTheMaximumLikelihoodDecode :
    ((flying (configured 3) 0 0xFF).inflight = some { cmd := 0, msg := 0, rcv := 0xFF } ∧
      (flying (configured 3) 0 0xFF).confValid = true ∧ strayBits 0xFF (flying (configured 3) 0 0xFF).n = false) ∧
    strayBits 0xFFFFFFFFFFFFFFFF (configured 6).n = false := by decide

theorem witness_DecKronWritesTheMaximumLikelihoodDecode :
    ((flying (configured 3) 0 0xFF).inflight = some { cmd := 0, msg := 0, rcv := 0xFF } ∧
      (flying (configured 3) 0 0xFF).confValid = true ∧ strayBits 0xFF (flying (configured 3) 0 0xFF).n = false) ∧
    strayBits 0xFFFFFFFFFFFFFFFF (configured 6).n = false := by decide

/-- Unconfigured; a length on either side of n; a 1 at bit n. -/
theorem witness_DecErrorsInOrder :
    (flying State.reset 0 0).inflight = some { cmd := 0, msg := 0, rcv := 0 } ∧
    (flying (configured 3) 0 0x100).inflight = some { cmd := 0, msg := 0, rcv := 0x100 } ∧
    (flying State.reset 0 0).confValid = false ∧
    ((flying (configured 3) 0 0x100).confValid = true ∧ 7 ≠ (flying (configured 3) 0 0x100).n ∧
      9 ≠ (flying (configured 3) 0 0x100).n) ∧
    8 = (flying (configured 3) 0 0x100).n ∧ (flying (configured 3) 0 0x100).n < 64 ∧
    strayBits 0x100 (flying (configured 3) 0 0x100).n = true := by decide

theorem witness_EveryCommandCompletesPrecisely : (flying (configured 3) 0 0).inflight ≠ none := by decide

/-- A command that is no CFG, and a CFG that fails. -/
theorem witness_OnlySuccessfulCfgChangesTheInstance :
    (∃ t, exec (.enc 4) (flying (configured 3) 0 0) = .next t) ∧ (∀ m, Instr.enc 4 ≠ .cfg m) ∧
    nextHas (exec (.cfg 0) (flying (configured 3) 0 0)) (fun t => t.err != .none) = true :=
  ⟨⟨_, rfl⟩, by simp, by decide⟩

/-- A command of every kind answers a next state. -/
theorem witness_CommandsWriteOnlyTheirOwnResults :
    (∃ t, exec .nop (flying (configured 3) 0 0) = .next t) ∧
    (∃ t, exec (.enc 4) (flying (configured 3) 0xD 0) = .next t) ∧
    (∃ t, exec (.decFht 8) (flying (configured 3) 0 0xC3) = .next t) ∧
    (∃ t, exec (.kent 1 1 1) (flying (configured 3) 0 0) = .next t) := ⟨⟨_, rfl⟩, ⟨_, rfl⟩, ⟨_, rfl⟩, ⟨_, rfl⟩⟩

theorem witness_CodewordClosedForms : 6 ≤ 6 ∧ 63 < 2 ^ 6 := by decide

/-- Messages u = 0, u = 1 and another, the least and the greatest m, and two distinct messages. -/
theorem witness_CodewordWeightsAndDistance :
    (1 ≤ 1 ∧ 1 ≤ 6 ∧ strayBits 0x3 (1 + 1) = false) ∧ (6 ≤ 6 ∧ strayBits 0x7F (6 + 1) = false) ∧
    (strayBits 0x0 (6 + 1) = false ∧ strayBits 0x1 (6 + 1) = false ∧ (0x7F : Word) ≠ 0x1) := by decide

/-- Indices that differ outside bit i-1, that agree there with both bits set, and with one clear. -/
theorem witness_StageMatrixClosedForm :
    (1 ≤ 3 ∧ 3 ≤ 3 ∧ 7 < 2 ^ 3) ∧ (0 ≠ 3 - 1 ∧ Nat.testBit 7 0 ≠ Nat.testBit 6 0) ∧
    (Nat.testBit 7 2 = true ∧ kstage 3 7 7 = -1) ∧ (Nat.testBit 3 2 = false ∧ kstage 3 7 3 = 1) := by decide

theorem witness_HadamardClosedForm : 7 < 2 ^ 3 ∧ (bipolar 8 0xC3).length = 2 ^ 3 := by decide

theorem witness_FhtIsTheHadamardProduct : (bipolar 8 0xC3).length = 2 ^ 3 ∧ ([5] : List Int).length = 2 ^ 0 := by decide

theorem witness_KroneckerTransformEqualsFht : (bipolar 8 0xC3).length = 2 ^ 3 ∧ 1 ≤ 1 ∧ 1 ≤ 3 ∧ 3 ≤ 3 := by decide

theorem witness_TransformNeverOverflows : 3 ≤ 3 ∧ 7 < 2 ^ 3 ∧ 0 ≤ 3 := by decide

/-- One entry, and a tie. -/
theorem witness_PeakIsTheFirstOfLargestMagnitude :
    0 < 1 ∧ peak 1 [0] = 0 ∧ 0 < 4 ∧ peak 4 [2, -4, 4, -4] = 1 := by decide

/-- An ENC that succeeds, and a later decode of its codeword in another state. -/
theorem witness_NoiselessRoundTrip :
    (flying (configured 3) 0xD 0).ConfigInv ∧
    (flying (configured 3) 0xD 0).inflight = some { cmd := 0, msg := 0xD, rcv := 0 } ∧
    nextHas (exec (.enc (flying (configured 3) 0xD 0).k) (flying (configured 3) 0xD 0))
      (fun t => t.err == .none && t.cw == 0xC3) = true ∧
    (flying (configured 3) 0 0xC3).ConfigInv ∧ (flying (configured 3) 0 0xC3).confValid = true ∧
    (flying (configured 3) 0 0xC3).confM = (flying (configured 3) 0xD 0).confM ∧
    (flying (configured 3) 0 0xC3).inflight = some { cmd := 0, msg := 0, rcv := 0xC3 } :=
  ⟨⟨by decide, by decide, by decide⟩, rfl, by decide, ⟨by decide, by decide, by decide⟩, rfl, rfl, rfl⟩

/-- One flip for m = 3, the greatest number below n/4. -/
theorem witness_FewFlipsAreCorrected :
    (flying (configured 3) 0 0xC2).ConfigInv ∧ (flying (configured 3) 0 0xC2).confValid = true ∧
    (flying (configured 3) 0 0xC2).inflight = some { cmd := 0, msg := 0, rcv := 0xC2 } ∧
    strayBits 0xD (flying (configured 3) 0 0xC2).k = false ∧ strayBits 0xC2 (flying (configured 3) 0 0xC2).n = false ∧
    4 * popcount 64 (0xC2 ^^^ encodeFn (flying (configured 3) 0 0xC2).confM 0xD).toNat <
      (flying (configured 3) 0 0xC2).n :=
  ⟨⟨by decide, by decide, by decide⟩, rfl, rfl, by decide, by decide, by decide⟩

theorem witness_PeakValueIsNeverZero :
    (flying (configured 3) 0 0xC0).ConfigInv ∧ (flying (configured 3) 0 0xC0).confValid = true ∧
    (flying (configured 3) 0 0xC0).inflight = some { cmd := 0, msg := 0, rcv := 0xC0 } ∧
    strayBits 0xC0 (flying (configured 3) 0 0xC0).n = false :=
  ⟨⟨by decide, by decide, by decide⟩, rfl, rfl, by decide⟩

theorem witness_InverseConventionGivesTheSameMessage : 6 ≤ 6 := by decide

theorem resultInv_flying : (flying (configured 3) 0 0xC3).ResultInv where
  cleared := by decide
  codeword_fits := by decide
  stage_entry := by decide
  corr_bound := by
    intro i
    by_cases h : i < 64 <;> simp [State.readReg, flying, configured, State.reset, h]
  corr_above := by
    intro i _
    by_cases h : i < 64 <;> simp [State.readReg, flying, configured, State.reset]
  peak_below := by decide
  peak_value := by decide
  peak_largest := by
    intro i
    by_cases h : i < 64 <;> simp [State.readReg, flying, configured, State.reset, h]
  peak_first := by
    intro i h
    exact absurd h (by simp [flying, configured, State.reset])
  decoded := by decide

/-- Both invariants hold where a command is in flight, and the machine steps from there. -/
theorem witness_StepKeepsTheInstanceInvariant :
    (flying (configured 3) 0 0xC3).ConfigInv ∧ ∃ t, step (flying (configured 3) 0 0xC3) = .next t :=
  ⟨⟨by decide, by decide, by decide⟩, _, rfl⟩

theorem witness_StepKeepsTheResultInvariant :
    (flying (configured 3) 0 0xC3).ConfigInv ∧ (flying (configured 3) 0 0xC3).ResultInv ∧
    ∃ t, step (flying (configured 3) 0 0xC3) = .next t :=
  ⟨⟨by decide, by decide, by decide⟩, resultInv_flying, _, rfl⟩

theorem witness_LegalHostsRunForever :
    (hosted (flying (configured 3) 0 0) (HostOp.issue Config.reference 0x5)).hostsLegal = true := by decide

end Sys2Proof.Tests
end

section
/-! PROOFS. Register reads and writes: the register map (O7, O8, O9), STATUS, ID, CFGR and GROW (O10, O11, O12), and
the two writes that react to BUSY and OVERRUN (O13, O14). -/

namespace Sys2Proof.Machine

/-! ### The register map -/

/-- The reserved offsets of the window, as R21 lists them. -/
theorem Reg.ofOffset_reserved {off : Nat}
    (h : (0x058 ≤ off ∧ off ≤ 0x07F) ∨ (0x0C0 ≤ off ∧ off ≤ 0x0FF) ∨ (0x300 ≤ off ∧ off ≤ 0xFFF)) :
    Reg.ofOffset off = .reserved := by
  have hnamed : ∀ c, c ≤ 0x050 → off ≠ c := by omega
  have hgrow : ¬ (0x080 ≤ off ∧ off < 0x0C0) := by omega
  have hcorr : ¬ (0x100 ≤ off ∧ off < 0x300) := by omega
  simp [Reg.ofOffset, hnamed, hgrow, hcorr]

theorem Reg.ofOffset_grow {t : Nat} (ht : t < 8) : Reg.ofOffset (0x080 + 8 * t) = .grow t := by
  have hnamed : ∀ c, c ≤ 0x050 → 0x080 + 8 * t ≠ c := by omega
  have hgrow : 0x080 + 8 * t < 0x0C0 := by omega
  simp [Reg.ofOffset, hnamed, hgrow]

theorem Reg.ofOffset_corr {i : Nat} (hi : i < 64) : Reg.ofOffset (0x100 + 8 * i) = .corr i := by
  have hnamed : ∀ c, c ≤ 0x050 → 0x100 + 8 * i ≠ c := by omega
  have hgrow : ¬ (0x080 ≤ 0x100 + 8 * i ∧ 0x100 + 8 * i < 0x0C0) := by omega
  have hcorr : 0x100 + 8 * i < 0x300 := by omega
  simp [Reg.ofOffset, hnamed, hgrow, hcorr]

/-- ID stands at offset 0 only. -/
theorem Reg.ofOffset_eq_id_iff {off : Nat} : Reg.ofOffset off = .id ↔ off = 0 := by
  refine ⟨fun hid => ?_, fun h => by simp [h, Reg.ofOffset]⟩
  by_contra hoff
  simp only [Reg.ofOffset, if_neg hoff, apply_ite (· = Reg.id), reduceCtorEq, ite_self] at hid

/-- Settles O7: the named offsets by evaluation, the two arrays and the reserved ranges by their lemmas. -/
theorem registerMapOffsets : Obligations.RegisterMapOffsets := by
  refine ⟨rfl, rfl, rfl, rfl, rfl, rfl, rfl, rfl, rfl, rfl, rfl, ?_, ?_, ?_⟩
  · exact fun t ht => Reg.ofOffset_grow ht
  · exact fun i hi => Reg.ofOffset_corr hi
  · exact fun off h => Reg.ofOffset_reserved h

/-- Settles O8: CMD and the reserved registers read the constant 0. -/
theorem cmdAndReservedOffsetsReadZero : Obligations.CmdAndReservedOffsetsReadZero := by
  refine fun s => ⟨rfl, fun off h => ?_⟩
  rw [Reg.ofOffset_reserved h]
  rfl

/-! ### Reads -/

/-- After reset every register but ID reads 0 (R49). -/
theorem State.readReg_reset {r : Reg} (h : r ≠ .id) : State.reset.readReg r = 0 := by
  cases r with
  | id => exact absurd rfl h
  | grow t => simp [State.readReg, State.growWord, State.reset]
  | corr i => simp [State.readReg, State.reset]
  | cmd | status | cfgr | msg | rcv | cw | dec | peakIdx | peakVal | kres | reserved => decide

/-- Settles O9: the only offset of ID is 0, and every other register reads 0. -/
theorem registersReadZeroAfterReset : Obligations.RegistersReadZeroAfterReset := by
  refine ⟨by decide, fun off hpos _ _ => State.readReg_reset fun hid => ?_⟩
  have := Reg.ofOffset_eq_id_iff.1 hid
  omega

/-- Every bit of STATUS (R26). -/
theorem State.getLsbD_statusWord (s : State) (b : Nat) :
    s.statusWord.getLsbD b =
      if b = 0 then s.inflight.isSome
      else if b = 1 then s.confValid
      else if b = 3 then s.overrun
      else if 8 ≤ b ∧ b ≤ 11 then s.err.code.getLsbD (b - 8)
      else false := by
  simp only [State.statusWord, State.busy, BitVec.getLsbD_append]
  by_cases hb : b < 8
  · interval_cases b <;> simp
  · obtain ⟨j, rfl⟩ := Nat.exists_eq_add_of_le' (Nat.le_of_not_lt hb)
    by_cases hj : j < 4
    · simp [hj, Nat.le_of_lt_succ hj]
    · simp [hj, show ¬ j ≤ 3 by omega]

/-- Settles O10: bit by bit, with the codes of R201 written out. -/
theorem statusReadsItsFields : Obligations.StatusReadsItsFields := by
  intro s b _
  rw [State.readReg, State.getLsbD_statusWord]
  generalize s.err = e
  cases e <;> rfl

/-! ### The fields of ID and CFGR -/

/-- The parameters and the configured m of a sound state are small (R4, R40). -/
theorem State.ConfigInv.confM_le_six {s : State} (hs : s.ConfigInv) : s.confM ≤ 6 := by
  obtain ⟨-, hmax, -⟩ := hs.parameters
  cases hv : s.confValid with
  | false => simp [(hs.unconfigured hv).1]
  | true => exact (hs.configured hv).2.1.trans hmax

/-- The fields of ID for every M_MAX of R4. -/
theorem State.field_idWord {s : State} (h : s.cfg.mMax ≤ 6) :
    field s.idWord 7 0 = s.cfg.mMax ∧ field s.idWord 15 8 = 0x01 ∧ field s.idWord 31 16 = 0 ∧
      field s.idWord 63 32 = 0x524D3143 := by
  unfold State.idWord
  generalize s.cfg.mMax = m at h ⊢
  interval_cases m <;> decide

/-- The fields of CFGR for every m the block can be configured for (R28). -/
theorem State.field_cfgrWord {s : State} (hv : s.confValid = true) (h : s.confM ≤ 6) :
    field s.cfgrWord 3 0 = s.confM ∧ field s.cfgrWord 7 4 = 0 ∧ field s.cfgrWord 15 8 = s.confM + 1 ∧
      field s.cfgrWord 31 16 = 2 ^ s.confM ∧ field s.cfgrWord 63 32 = 0 := by
  simp only [State.cfgrWord, hv, if_true, State.n, State.k]
  generalize s.confM = m at h ⊢
  interval_cases m <;> decide

/-- Settles O11: M_MAX and m are at most 6, so every field fits. -/
theorem idAndCfgrReadTheirFields : Obligations.IdAndCfgrReadTheirFields := by
  intro s hs
  obtain ⟨-, hmax, -⟩ := hs.parameters
  refine ⟨State.field_idWord hmax, fun hv => State.field_cfgrWord hv hs.confM_le_six, fun hv => ?_⟩
  simp [State.readReg, State.cfgrWord, hv]

/-! ### GROW -/

/-- Bit j of GROW[t] is the bit of the stored matrix, within its k rows and n columns (R36). -/
theorem State.getLsbD_growWord (s : State) (t j : Nat) (hj : j < 64) :
    (s.growWord t).getLsbD j =
      (s.confValid && decide (t < s.k) && decide (j < s.n) && gmatBit s.gmat t j) := by
  unfold State.growWord
  split
  · next h => simp [h, hj, gmatBit]
  · next h =>
    have houtside : (s.confValid && decide (t < s.k)) = false := by simpa using h
    simp [houtside]

/-- Settles O12: the stored matrix of a configured block is Gen(m), whose bits `gmatBit_gen` gives. -/
theorem growReadsTheGeneratorRows : Obligations.GrowReadsTheGeneratorRows := by
  intro s hs t j hj
  show (s.growWord t).getLsbD j = _
  rw [State.getLsbD_growWord s t j hj]
  cases hv : s.confValid with
  | false => simp
  | true =>
    by_cases ht : t ≤ s.confM
    · have hbit := gmatBit_gen (j := j) (Nat.lt_succ_of_le ht)
      rw [(hs.configured hv).2.2, hbit]
      by_cases hn : j < 2 ^ s.confM <;> simp [State.n, State.k, genBit, bit, hj, ht, hn, beq_eq_decide]
    · simp [State.k, ht, show ¬ t < s.confM + 1 by omega]

/-! ### Writes of CMD and STATUS -/

/-- Settles O13: the two reactions of `writeCmd_cases` exclude each other. -/
theorem cmdWriteIssuesOrOverruns : Obligations.CmdWriteIssuesOrOverruns := by
  intro s v
  show (_ → s.writeCmd v = _) ∧ (_ → s.writeCmd v = _)
  obtain ⟨hidle, he⟩ | ⟨hbusy, he⟩ := s.writeCmd_cases v
  · exact ⟨fun _ => he, fun h => absurd hidle h⟩
  · exact ⟨fun h => absurd h hbusy, fun _ => he⟩

/-- Settles O14: by the value's bit 3. -/
theorem statusWriteOnlyClearsOverrun : Obligations.StatusWriteOnlyClearsOverrun := by
  intro s v
  show s.writeStatus v = _
  unfold State.writeStatus
  split
  · next h => simp only [h, Bool.not_true, Bool.and_false]
  · next h => simp only [Bool.eq_false_of_not_eq_true h, Bool.not_false, Bool.and_true]

end Sys2Proof.Machine
end

section
/-! PROOFS. What a turn leaves alone: frames of a host's turn and of a command (O21, O22, O41), the latch (O27), the
engine's turn (O23, O25), and the configuration kept well formed by every step (O58). -/

namespace Sys2Proof.Machine

/-! ### States that agree on the configuration, and on the results -/

/-- `t` has the parameters and the configured code of `s` (R4, R5, R40, R41). -/
structure SameConfig (s t : State) : Prop where
  cfg : t.cfg = s.cfg
  confValid : t.confValid = s.confValid
  confM : t.confM = s.confM
  gmat : t.gmat = s.gmat

/-- `t` has the result registers of `s` (R31 to R35, R37). -/
structure SameResults (s t : State) : Prop where
  cw : t.cw = s.cw
  dec : t.dec = s.dec
  peakIdx : t.peakIdx = s.peakIdx
  peakVal : t.peakVal = s.peakVal
  kres : t.kres = s.kres
  corr : t.corr = s.corr

theorem SameConfig.finish (s : State) (e : ErrCode) : SameConfig s (s.finish e) := ⟨rfl, rfl, rfl, rfl⟩

theorem SameResults.finish (s : State) (e : ErrCode) : SameResults s (s.finish e) := ⟨rfl, rfl, rfl, rfl, rfl, rfl⟩

theorem SameConfig.popTurn (s : State) : SameConfig s s.popTurn := ⟨rfl, rfl, rfl, rfl⟩

theorem SameResults.popTurn (s : State) : SameResults s s.popTurn := ⟨rfl, rfl, rfl, rfl, rfl, rfl⟩

/-- A host's turn keeps parameters and configuration (R45). -/
theorem SameConfig.of_hostStep {h : Nat} {s t : State} (ht : hostStep h s = .next t) : SameConfig s t := by
  rcases hostStep_cases ht with rfl | ⟨b, rfl⟩ | ⟨b, off, v, -, -, rfl⟩ <;> constructor <;> simp

/-- A host's turn writes no result (R45, R70). -/
theorem SameResults.of_hostStep {h : Nat} {s t : State} (ht : hostStep h s = .next t) : SameResults s t := by
  rcases hostStep_cases ht with rfl | ⟨b, rfl⟩ | ⟨b, off, v, -, -, rfl⟩ <;> constructor <;> simp

theorem hostStep_err {h : Nat} {s t : State} (ht : hostStep h s = .next t) : t.err = s.err := by
  rcases hostStep_cases ht with rfl | ⟨b, rfl⟩ | ⟨b, off, v, -, -, rfl⟩ <;> simp

theorem hostStep_schedule {h : Nat} {s t : State} (ht : hostStep h s = .next t) : t.schedule = s.schedule := by
  rcases hostStep_cases ht with rfl | ⟨b, rfl⟩ | ⟨b, off, v, -, -, rfl⟩ <;> simp

/-- Settles O22: a host's turn passes, reads, or writes one register, and none of these reaches a result. -/
theorem hostTurnsLeaveResultsAlone : Obligations.HostTurnsLeaveResultsAlone := by
  intro s t h ht
  obtain ⟨hcw, hdec, hidx, hval, hkres, hcorr⟩ := SameResults.of_hostStep ht
  obtain ⟨hcfg, hv, hm, hg⟩ := SameConfig.of_hostStep ht
  exact ⟨hcw, hdec, hidx, hval, hkres, hcorr, hostStep_err ht, hv, hm, hg, hcfg, hostStep_schedule ht⟩

/-! ### What is in the latch is hidden -/

/-- `s` with `l` in flight. -/
def State.withLatch (s : State) (l : Latch) : State := { s with inflight := some l }

/-- A read tells only that the latch is full (R26, R42). -/
theorem State.readReg_withLatch (s : State) (l l' : Latch) (r : Reg) :
    (s.withLatch l').readReg r = (s.withLatch l).readReg r := by
  cases r <;> rfl

/-- A write reacts only to the latch being full (R25). -/
theorem State.writeReg_withLatch (s : State) (l l' : Latch) (r : Reg) (v : Word) :
    (s.withLatch l').writeReg r v = ((s.withLatch l).writeReg r v).withLatch l' := by
  cases r with
  | status =>
    show State.writeStatus _ v = (State.writeStatus _ v).withLatch l'
    unfold State.writeStatus
    split <;> rfl
  | _ => rfl

theorem busRead_withLatch (s : State) (l l' : Latch) (addr count : Nat) :
    busRead (s.withLatch l') addr count = busRead (s.withLatch l) addr count := by
  simp only [busRead, State.readReg_withLatch s l l']
  rfl

/-- An outcome with every next state changed by `f`. -/
def mapNext (f : State → State) : Host.Outcome State Fault Refusal → Host.Outcome State Fault Refusal
  | .next t => .next (f t)
  | .fault r => .fault r
  | .refused r => .refused r

theorem busWrite_withLatch (s : State) (l l' : Latch) (addr : Nat) (data : List Byte) :
    busWrite (s.withLatch l') addr data = mapNext (·.withLatch l') (busWrite (s.withLatch l) addr data) := by
  have hcfg : ∀ l, (s.withLatch l).cfg = s.cfg := fun _ => rfl
  simp only [busWrite, State.writeReg_withLatch s l l', hcfg]
  cases accessOffset s.cfg addr data.length <;> rfl

theorem hostRead_withLatch (s : State) (l l' : Latch) (h : Nat) (b : BusHost) (addr count : Nat)
    (prog : List Byte → List HostOp) :
    hostRead (s.withLatch l') h b addr count prog =
      mapNext (·.withLatch l') (hostRead (s.withLatch l) h b addr count prog) := by
  simp only [hostRead, busRead_withLatch s l l']
  cases busRead (s.withLatch l) addr count <;> rfl

theorem hostStep_withLatch (s : State) (l l' : Latch) (h : Nat) :
    hostStep h (s.withLatch l') = mapNext (·.withLatch l') (hostStep h (s.withLatch l)) := by
  have hhosts : ∀ l, (s.withLatch l).hosts = s.hosts := fun _ => rfl
  unfold hostStep
  rw [hhosts, hhosts]
  cases s.hosts[h]? with
  | none => rfl
  | some b =>
    obtain ⟨prog, reads⟩ := b
    cases prog with
    | nil => rfl
    | cons op rest =>
      cases op with
      | write addr data => exact busWrite_withLatch (s.setHost h ⟨rest, reads⟩) l l' addr data
      | read addr count => exact hostRead_withLatch s l l' h _ addr count _
      | wait => exact hostRead_withLatch s l l' h _ _ 8 _

/-- Settles O21: reads and writes of the block commute with changing what is in a full latch. -/
theorem latchContentsAreHiddenFromHosts : Obligations.LatchContentsAreHiddenFromHosts := by
  intro s h l l'
  refine (hostStep_withLatch s l l' h).trans ?_
  unfold State.withLatch
  cases hostStep h { s with inflight := some l } <;> rfl

/-! ### The engine's turn -/

/-- A completed command is no longer in flight (R43). -/
theorem exec_inflight {i : Instr} {s t : State} (h : exec i s = .next t) : t.inflight = none := by
  obtain ⟨l, -, ⟨e, rfl, -⟩ | ⟨-, rfl⟩ | ⟨m, -, -, -, rfl⟩ | ⟨len, -, -, -, -, rfl⟩ | ⟨p, len, -, -, -, rfl⟩ |
    ⟨a, b, c, -, -, -, -, -, -, rfl⟩⟩ := exec_eq_next_cases h <;> rfl

/-- The engine's turn with a command in flight empties the latch (R43). -/
theorem engineStep_inflight {s t : State} (h : engineStep s = .next t) : t.inflight = none := by
  obtain ⟨hidle, rfl⟩ | ⟨l, -, ⟨i, -, hi⟩ | ⟨r, -, rfl⟩⟩ := engineStep_cases h
  · exact hidle
  · exact exec_inflight hi
  · rfl

theorem engineStep_of_decode {s : State} {l : Latch} {i : Instr} (hl : s.inflight = some l)
    (hd : decode l.cmd = .ok i) : engineStep s = exec i s := by
  simp [engineStep, hl, complete, hd]

/-- Past the schedule's end a command in flight is the engine's (log entry 4). -/
theorem step_of_busy {s : State} (h : s.schedule = []) (hb : s.busy = true) : step s = engineStep s := by
  have hpop : s.popTurn = s := by rw [State.popTurn, h, List.tail_nil, ← h]
  simp [step, State.nextTurn_of_busy h hb, hpop, takeTurn]

/-- Settles O23: in both cases the turn is the engine's, on the latched value. -/
theorem stepRunsTheDecodedCommand : Obligations.StepRunsTheDecodedCommand := by
  intro s l i hl hd
  constructor
  · intro ts hts
    rw [step_of_schedule hts, State.popTurn, hts]
    exact engineStep_of_decode hl hd
  · intro hempty
    rw [step_of_busy hempty (by simp [State.busy, hl])]
    exact engineStep_of_decode hl hd

/-- Settles O25: the engine's turn with an empty latch passes. -/
theorem idleEngineChangesNothing : Obligations.IdleEngineChangesNothing := by
  intro s ts hidle hts
  rw [step_of_schedule hts, State.popTurn, hts]
  simp [takeTurn, engineStep, hidle]

/-- Settles O27: by whose turn it is. -/
theorem latchIsKeptUntilCompletionOrReset : Obligations.LatchIsKeptUntilCompletionOrReset := by
  intro s t l hl hstep
  obtain ⟨-, rfl⟩ | ⟨a, ha, hturn⟩ := step_cases hstep
  · exact .inl hl
  · cases a with
    | host h => exact .inl (hostStep_inflight (s := s.popTurn) hl hturn)
    | engine => exact .inr ⟨engineStep_inflight hturn, .inl ha⟩
    | reset =>
      simp only [takeTurn, Host.Outcome.next.injEq] at hturn
      exact .inr ⟨by simp [← hturn], .inr ha⟩

/-- Settles O41: by the effect of each command. -/
theorem commandsWriteOnlyTheirOwnResults : Obligations.CommandsWriteOnlyTheirOwnResults := by
  intro i s t h
  obtain ⟨l, -, ⟨e, rfl, -⟩ | ⟨-, rfl⟩ | ⟨m, rfl, -, -, rfl⟩ | ⟨len, rfl, -, -, -, rfl⟩ |
    ⟨p, len, rfl | rfl, -, -, rfl⟩ | ⟨a, b, c, rfl, -, -, -, -, -, rfl⟩⟩ := exec_eq_next_cases h <;>
    simp [Instr.op]

/-! ### The configuration -/

theorem State.ConfigInv.congr {s t : State} (h : SameConfig s t) (hs : s.ConfigInv) : t.ConfigInv := by
  obtain ⟨hcfg, hv, hm, hg⟩ := h
  obtain ⟨hpar, hun, hconf⟩ := hs
  constructor
  · rwa [hcfg]
  · rwa [hv, hm, hg]
  · rwa [hv, hm, hg, hcfg]

/-- Reset leaves no code and the parameters as they are (R49, R230). -/
theorem State.ConfigInv.resetBlock {s : State} (hs : s.ConfigInv) : s.resetBlock.ConfigInv :=
  ⟨hs.parameters, fun _ => ⟨rfl, rfl⟩, fun h => absurd h (by simp)⟩

/-- A legal CFG makes the code Gen(m) (R105). -/
theorem State.ConfigInv.configure {s : State} (hs : s.ConfigInv) {m : Nat} (h₁ : 1 ≤ m) (h₂ : m ≤ s.cfg.mMax) :
    (s.configure m).ConfigInv :=
  ⟨hs.parameters, fun h => absurd h (by simp), fun _ => ⟨h₁, h₂, rfl⟩⟩

/-- A command keeps the configuration, or is a CFG that makes a new one (R108). -/
theorem exec_sameConfig_or_configure {i : Instr} {s t : State} (h : exec i s = .next t) :
    SameConfig s t ∨ ∃ m, 1 ≤ m ∧ m ≤ s.cfg.mMax ∧ SameConfig (s.configure m) t := by
  obtain ⟨l, -, ⟨e, rfl, -⟩ | ⟨-, rfl⟩ | ⟨m, -, h₁, h₂, rfl⟩ | ⟨len, -, -, -, -, rfl⟩ | ⟨p, len, -, -, -, rfl⟩ |
    ⟨a, b, c, -, -, -, -, -, -, rfl⟩⟩ := exec_eq_next_cases h
  · exact .inl ⟨rfl, rfl, rfl, rfl⟩
  · exact .inl ⟨rfl, rfl, rfl, rfl⟩
  · exact .inr ⟨m, h₁, h₂, rfl, rfl, rfl, rfl⟩
  · exact .inl ⟨rfl, rfl, rfl, rfl⟩
  · exact .inl ⟨rfl, rfl, rfl, rfl⟩
  · exact .inl ⟨rfl, rfl, rfl, rfl⟩

theorem State.ConfigInv.exec {i : Instr} {s t : State} (hs : s.ConfigInv) (h : exec i s = .next t) : t.ConfigInv := by
  obtain hsame | ⟨m, h₁, h₂, hsame⟩ := exec_sameConfig_or_configure h
  · exact hs.congr hsame
  · exact (hs.configure h₁ h₂).congr hsame

/-- Every agent's turn keeps the configuration well formed. -/
theorem State.ConfigInv.takeTurn {a : Turn} {s t : State} (hs : s.ConfigInv) (h : takeTurn a s = .next t) :
    t.ConfigInv := by
  cases a with
  | host i => exact hs.congr (.of_hostStep h)
  | engine =>
    obtain ⟨-, rfl⟩ | ⟨l, -, ⟨i, -, hi⟩ | ⟨r, -, rfl⟩⟩ := engineStep_cases h
    · exact hs
    · exact hs.exec hi
    · exact hs.congr (.finish s _)
  | reset =>
    obtain rfl : s.resetBlock = t := by simpa [Machine.takeTurn] using h
    exact hs.resetBlock

/-- Settles O58: a step is one agent's turn, and each keeps the configuration. -/
theorem stepKeepsTheInstanceInvariant : Obligations.StepKeepsTheInstanceInvariant := by
  intro s t hs hstep
  obtain ⟨-, rfl⟩ | ⟨a, -, hturn⟩ := step_cases hstep
  · exact ⟨hs, rfl⟩
  · have hpop : s.popTurn.ConfigInv := hs.congr (.popTurn s)
    exact ⟨hpop.takeTurn hturn, takeTurn_cfg (s := s.popTurn) hturn⟩

end Sys2Proof.Machine
end

section
/-! PROOFS. The stages of the two transforms, entry by entry: every entry of a stage is the sum or the difference of a
pair, in the butterfly and in the Kronecker product alike. So the two transforms agree (R149), and a stage at most
doubles the largest magnitude (R142). -/

namespace Sys2Proof.Machine

/-! ### Entries of a list -/

theorem entry_of_length_le {w : List Int} {i : Nat} (h : w.length ≤ i) : entry w i = 0 := by
  simp [entry, h]

theorem entry_set (w : List Int) (j : Nat) (x : Int) (i : Nat) :
    entry (w.set j x) i = if i = j ∧ j < w.length then x else entry w i := by
  by_cases hij : i = j
  · subst hij
    by_cases hlen : i < w.length <;> simp [entry, List.getD_eq_getElem?_getD, hlen]
  · simp [entry, List.getD_eq_getElem?_getD, hij, Ne.symm hij]

theorem list_ext_entry {v w : List Int} (hlen : v.length = w.length)
    (h : ∀ i, i < v.length → entry v i = entry w i) : v = w := by
  refine List.ext_getElem hlen fun i hv hw => ?_
  simpa [entry, hv, hw] using h i hv

/-! ### Pairs of indices: those that differ in bit s alone -/

/-- The partner of an index whose bit s is 0 stands 2^s above it. -/
theorem xor_two_pow_of_bit_clear {j s : Nat} (h : bit j s = false) : j ^^^ 2 ^ s = j + 2 ^ s := by
  have heven : Even (j / 2 ^ s) := by
    rw [bit, Nat.testBit_eq_decide_div_mod_eq] at h
    rw [Nat.even_iff]
    simpa using h
  have hdiv : (j ^^^ 2 ^ s) / 2 ^ s = j / 2 ^ s + 1 := by
    rw [Nat.xor_div_two_pow, Nat.div_self (Nat.two_pow_pos s), Nat.xor_one_of_even heven]
  have hmod : (j ^^^ 2 ^ s) % 2 ^ s = j % 2 ^ s := by
    rw [Nat.xor_mod_two_pow, Nat.mod_self, Nat.xor_zero]
  calc j ^^^ 2 ^ s = 2 ^ s * (j / 2 ^ s + 1) + j % 2 ^ s := by rw [← hdiv, ← hmod, Nat.div_add_mod]
    _ = 2 ^ s * (j / 2 ^ s) + j % 2 ^ s + 2 ^ s := by ring
    _ = j + 2 ^ s := by rw [Nat.div_add_mod]

@[simp] theorem bit_xor_two_pow (i s : Nat) : bit (i ^^^ 2 ^ s) s = !bit i s := by
  simp [bit, Nat.testBit_xor]

theorem xor_two_pow_lt {i m s : Nat} (hi : i < 2 ^ m) (hs : s < m) : i ^^^ 2 ^ s < 2 ^ m :=
  Nat.xor_lt_two_pow hi (Nat.pow_lt_pow_right (by omega) hs)

/-- Entry i after stage s: the sum of its pair where bit s of i is 0, the difference where it is 1 (R140). -/
def pairEntry (s : Nat) (a : List Int) (i : Nat) : Int :=
  if bit i s then entry a (i ^^^ 2 ^ s) - entry a i else entry a i + entry a (i ^^^ 2 ^ s)

/-! ### A stage of the in-place transform -/

/-- A butterfly changes the entries of its own pair only. -/
theorem entry_butterfly {a : List Int} {j s : Nat} (hclear : bit j s = false) (hlen : j + 2 ^ s < a.length) (i : Nat) :
    entry (butterfly (2 ^ s) a j) i = if i = j ∨ i ^^^ 2 ^ s = j then pairEntry s a i else entry a i := by
  have hpart := xor_two_pow_of_bit_clear hclear
  have hpos := Nat.two_pow_pos s
  have hupper : i ^^^ 2 ^ s = j ↔ i = j + 2 ^ s := by
    rw [← hpart]
    constructor <;> rintro rfl <;> simp
  simp only [butterfly, entry_set, List.length_set, hupper]
  by_cases hi : i = j + 2 ^ s
  · have hset : bit i s = true := by rw [hi, ← hpart, bit_xor_two_pow, hclear]; rfl
    have hlow : i ^^^ 2 ^ s = j := hupper.2 hi
    rw [if_pos ⟨hi, hlen⟩, if_pos (.inr hi), pairEntry, if_pos hset, hlow, hi]
  · by_cases hij : i = j
    · subst hij
      simp [pairEntry, hclear, hpart, show i < a.length by omega]
    · simp [hi, hij]

/-- Butterflies on distinct pairs: each changes its own pair, so the pairs' old entries decide the new ones. -/
theorem entry_foldl_butterfly {s : Nat} {js : List Nat} (hnodup : js.Nodup) {a : List Int}
    (hjs : ∀ j ∈ js, bit j s = false ∧ j + 2 ^ s < a.length) (i : Nat) :
    entry (js.foldl (butterfly (2 ^ s)) a) i =
      if i ∈ js ∨ i ^^^ 2 ^ s ∈ js then pairEntry s a i else entry a i := by
  induction js generalizing a with
  | nil => simp
  | cons j js ih =>
    obtain ⟨hj, hnodup⟩ := List.nodup_cons.1 hnodup
    obtain ⟨⟨hclear, hlen⟩, hrest⟩ := List.forall_mem_cons.1 hjs
    rw [List.foldl_cons, ih hnodup (by simpa using hrest)]
    have hentry := entry_butterfly hclear hlen
    have hne : ∀ k ∈ js, k ≠ j ∧ k ^^^ 2 ^ s ≠ j := by
      refine fun k hk => ⟨fun heq => hj (heq ▸ hk), fun heq => ?_⟩
      have hbit := bit_xor_two_pow k s
      simp [heq, hclear, (hrest k hk).1] at hbit
    by_cases hmem : i ∈ js ∨ i ^^^ 2 ^ s ∈ js
    · have hother : i ≠ j ∧ i ^^^ 2 ^ s ≠ j := by
        obtain hi | hi := hmem
        · exact hne i hi
        · exact ⟨by simpa using (hne _ hi).2, (hne _ hi).1⟩
      have hkeep : entry (butterfly (2 ^ s) a j) i = entry a i := by
        rw [hentry, if_neg (by simp [hother])]
      have hkeep' : entry (butterfly (2 ^ s) a j) (i ^^^ 2 ^ s) = entry a (i ^^^ 2 ^ s) := by
        rw [hentry, if_neg (by simp [hother])]
      have hcons : i ∈ j :: js ∨ i ^^^ 2 ^ s ∈ j :: js := hmem.imp (List.mem_cons_of_mem j) (List.mem_cons_of_mem j)
      rw [if_pos hmem, if_pos hcons, pairEntry, pairEntry, hkeep, hkeep']
    · obtain ⟨hi, hpart⟩ := not_or.1 hmem
      simp only [hentry, List.mem_cons, hi, hpart, or_false, if_false]

/-- The lower index of every pair of a stage, in the order of the loops of R140. -/
def stageStarts (n h : Nat) : List Nat :=
  (List.range (n / (2 * h))).flatMap fun b => (List.range h).map fun j => 2 * h * b + j

theorem fhtStage_eq_foldl (n h : Nat) (a : List Int) :
    fhtStage n h a = (stageStarts n h).foldl (butterfly h) a := by
  simp [fhtStage, stageStarts, List.foldl_flatMap, List.foldl_map]

theorem nodup_stageStarts (n h : Nat) : (stageStarts n h).Nodup := by
  refine List.Pairwise.imp Nat.ne_of_lt (List.pairwise_flatMap.2 ⟨fun b _ => ?_, ?_⟩)
  · exact List.pairwise_map.2 (List.pairwise_lt_range.imp fun hlt => by omega)
  · refine List.pairwise_lt_range.imp fun {b c} hbc x hx y hy => ?_
    obtain ⟨j, hj, rfl⟩ := List.mem_map.1 hx
    obtain ⟨k, -, rfl⟩ := List.mem_map.1 hy
    have hj := List.mem_range.1 hj
    have : 2 * h * (b + 1) ≤ 2 * h * c := Nat.mul_le_mul_left _ hbc
    rw [Nat.mul_add] at this
    omega

/-- The starts are the indices whose bit s is 0. -/
theorem mem_stageStarts {m s j : Nat} (hs : s < m) : j ∈ stageStarts (2 ^ m) (2 ^ s) ↔ j < 2 ^ m ∧ bit j s = false := by
  obtain ⟨d, rfl⟩ := Nat.exists_eq_add_of_lt hs
  have hpos := Nat.two_pow_pos s
  have hsize : 2 ^ (s + d + 1) = 2 * 2 ^ s * 2 ^ d := by ring
  have hblocks : 2 ^ (s + d + 1) / (2 * 2 ^ s) = 2 ^ d := by
    rw [hsize, Nat.mul_div_cancel_left _ (by omega)]
  simp only [stageStarts, hblocks, List.mem_flatMap, List.mem_map, List.mem_range, bit,
    Nat.testBit_eq_decide_div_mod_eq, decide_eq_false_iff_not]
  constructor
  · rintro ⟨b, hb, r, hr, rfl⟩
    have hlt : 2 * 2 ^ s * (b + 1) ≤ 2 * 2 ^ s * 2 ^ d := Nat.mul_le_mul_left _ hb
    have hdiv : (2 * 2 ^ s * b + r) / 2 ^ s = 2 * b := by
      rw [show 2 * 2 ^ s * b + r = 2 ^ s * (2 * b) + r by ring, Nat.mul_add_div hpos, Nat.div_eq_of_lt hr, Nat.add_zero]
    rw [hdiv, hsize]
    rw [Nat.mul_add] at hlt
    omega
  · rintro ⟨hj, heven⟩
    have hq : j / 2 ^ s < 2 * 2 ^ d := Nat.div_lt_of_lt_mul (by rw [hsize] at hj; linarith)
    refine ⟨j / 2 ^ s / 2, by omega, j % 2 ^ s, Nat.mod_lt _ hpos, ?_⟩
    have htwice : 2 * (j / 2 ^ s / 2) = j / 2 ^ s := by omega
    calc 2 * 2 ^ s * (j / 2 ^ s / 2) + j % 2 ^ s = 2 ^ s * (2 * (j / 2 ^ s / 2)) + j % 2 ^ s := by ring
      _ = j := by rw [htwice, Nat.div_add_mod]

/-- Every entry after stage s of the in-place transform (R140). -/
theorem entry_fhtStage {m s i : Nat} {a : List Int} (hlen : a.length = 2 ^ m) (hs : s < m) (hi : i < 2 ^ m) :
    entry (fhtStage (2 ^ m) (2 ^ s) a) i = pairEntry s a i := by
  rw [fhtStage_eq_foldl, entry_foldl_butterfly (nodup_stageStarts _ _), if_pos]
  · cases hbit : bit i s with
    | false => exact .inl ((mem_stageStarts hs).2 ⟨hi, hbit⟩)
    | true => exact .inr ((mem_stageStarts hs).2 ⟨xor_two_pow_lt hi hs, by simp [hbit]⟩)
  · intro j hj
    obtain ⟨hlt, hclear⟩ := (mem_stageStarts hs).1 hj
    rw [hlen, ← xor_two_pow_of_bit_clear hclear]
    exact ⟨hclear, xor_two_pow_lt hlt hs⟩

/-! ### A stage of the Kronecker transform -/

theorem or_two_pow_eq_iff (x s : Nat) : x ||| 2 ^ s = 2 ^ s ↔ x = 0 ∨ x = 2 ^ s := by
  constructor
  · intro h
    have hout : ∀ p, s ≠ p → x.testBit p = false := by
      intro p hp
      have hbit := congrArg (Nat.testBit · p) h
      simpa [Nat.testBit_two_pow_of_ne hp] using hbit
    cases hbit : x.testBit s with
    | false =>
      refine .inl (Nat.zero_of_testBit_eq_false fun p => ?_)
      by_cases hp : s = p
      · exact hp ▸ hbit
      · exact hout p hp
    | true =>
      refine .inr (Nat.eq_of_testBit_eq fun p => ?_)
      by_cases hp : s = p
      · rw [← hp, hbit, Nat.testBit_two_pow_self]
      · rw [hout p hp, Nat.testBit_two_pow_of_ne hp]
  · rintro (rfl | rfl) <;> simp

/-- Row a of a stage matrix has two entries that are not 0: its own column and its partner's (R147). -/
theorem kstage_succ (s a b : Nat) :
    kstage (s + 1) a b = (if b = a then (if bit a s then -1 else 1) else 0) + (if b = a ^^^ 2 ^ s then 1 else 0) := by
  have hpart : a ^^^ 2 ^ s ≠ a := by
    intro h
    have := bit_xor_two_pow a s
    simp [h] at this
  have hzero : a ^^^ b = 0 ↔ b = a := by rw [Nat.xor_eq_zero_iff, eq_comm]
  have hpow : a ^^^ b = 2 ^ s ↔ b = a ^^^ 2 ^ s := by
    constructor
    · intro h; rw [← h, Nat.xor_xor_cancel_left]
    · rintro rfl; rw [Nat.xor_xor_cancel_left]
  simp only [kstage, Nat.add_sub_cancel, ne_eq, or_two_pow_eq_iff, hzero, hpow]
  by_cases hown : b = a
  · subst hown
    simp [hpart.symm]
  · by_cases hother : b = a ^^^ 2 ^ s
    · subst hother
      simp [hpart]
    · simp [hown, hother]

theorem foldl_add_eq_sum (n : Nat) (f : Nat → Int) :
    (List.range n).foldl (fun acc b => acc + f b) 0 = ∑ b ∈ Finset.range n, f b := by
  induction n with
  | zero => rfl
  | succ n ih => rw [List.range_succ, List.foldl_append, ih, Finset.sum_range_succ]; rfl

/-- Every entry after stage s+1 of the Kronecker transform (R148). -/
theorem entry_kronStage_succ {m s a : Nat} (hs : s < m) (ha : a < 2 ^ m) (v : List Int) :
    entry (kronStage (2 ^ m) (s + 1) v) a = pairEntry s v a := by
  have hpart := xor_two_pow_lt ha hs
  rw [entry_kronStage ha, foldl_add_eq_sum]
  simp only [kstage_succ, add_mul, ite_mul, zero_mul, one_mul, Finset.sum_add_distrib, Finset.sum_ite_eq',
    Finset.mem_range, ha, hpart, if_true, pairEntry]
  split <;> ring

/-- Stage s+1 of the Kronecker transform is stage s of the in-place one (R149). -/
theorem kronStage_eq_fhtStage {m s : Nat} (hs : s < m) {v : List Int} (hlen : v.length = 2 ^ m) :
    kronStage (2 ^ m) (s + 1) v = fhtStage (2 ^ m) (2 ^ s) v := by
  refine list_ext_entry (by simp [hlen]) fun i hi => ?_
  rw [length_kronStage] at hi
  rw [entry_kronStage_succ hs hi, entry_fhtStage hlen hs hi]

/-! ### Whole transforms -/

/-- The first `k` stages of `fht m`. -/
def fhtStages (m k : Nat) (a : List Int) : List Int :=
  (List.range k).foldl (fun a s => fhtStage (2 ^ m) (2 ^ s) a) a

theorem fht_eq_fhtStages (m : Nat) (a : List Int) : fht m a = fhtStages m m a := rfl

theorem fhtStages_succ (m k : Nat) (a : List Int) :
    fhtStages m (k + 1) a = fhtStage (2 ^ m) (2 ^ k) (fhtStages m k a) := by
  simp [fhtStages, List.range_succ]

@[simp] theorem length_fhtStages (m k : Nat) (a : List Int) : (fhtStages m k a).length = a.length :=
  length_foldl _ (fun a _ => length_fhtStage _ _ a) _ a

/-- The two transforms agree on every vector of 2^m integers (R149). -/
theorem kron_eq_fht {m : Nat} {w : List Int} (hlen : w.length = 2 ^ m) : kron m w = fht m w := by
  have hstages : ∀ k, k ≤ m → (List.range k).foldl (fun v i => kronStage (2 ^ m) (i + 1) v) w = fhtStages m k w := by
    intro k
    induction k with
    | zero => exact fun _ => rfl
    | succ k ih =>
      intro hk
      rw [List.range_succ, List.foldl_append, ih (by omega), fhtStages_succ]
      exact kronStage_eq_fhtStage hk (by simp [hlen])
  exact hstages m le_rfl

theorem transform_eq_fht (path : DecPath) {m : Nat} {w : List Int} (hlen : w.length = 2 ^ m) :
    transform path m w = fht m w := by
  cases path with
  | fht => rfl
  | kron => exact kron_eq_fht hlen

/-! ### Magnitudes -/

/-- A stage at most doubles the largest magnitude. -/
theorem natAbs_pairEntry_le {a : List Int} {B : Nat} (h : ∀ i, (entry a i).natAbs ≤ B) (s i : Nat) :
    (pairEntry s a i).natAbs ≤ 2 * B := by
  have hown := h i
  have hpart := h (i ^^^ 2 ^ s)
  unfold pairEntry
  split <;> omega

/-- After k stages every magnitude is within 2^k times the largest one before (R142). -/
theorem natAbs_entry_fhtStages_le {m : Nat} {a : List Int} {B : Nat} (hlen : a.length = 2 ^ m)
    (h : ∀ i, (entry a i).natAbs ≤ B) {k : Nat} (hk : k ≤ m) (i : Nat) :
    (entry (fhtStages m k a) i).natAbs ≤ 2 ^ k * B := by
  induction k generalizing i with
  | zero => simpa [fhtStages] using h i
  | succ k ih =>
    by_cases hi : i < 2 ^ m
    · rw [fhtStages_succ, entry_fhtStage (by simp [hlen]) hk hi, Nat.pow_succ', Nat.mul_assoc]
      exact natAbs_pairEntry_le (ih (by omega)) k i
    · rw [entry_of_length_le (by simpa [hlen] using hi)]
      exact Nat.zero_le _

theorem natAbs_entry_bipolar_le (n : Nat) (rcv : Word) (i : Nat) : (entry (bipolar n rcv) i).natAbs ≤ 1 := by
  by_cases hi : i < n
  · cases hbit : rcv.getLsbD i <;> simp [entry, bipolar, hi, hbit]
  · rw [entry_of_length_le (by simpa using hi)]
    exact Nat.zero_le _

/-- The correlations of a received word lie in [-n, n] (R37). -/
theorem natAbs_entry_transform_le (path : DecPath) (m : Nat) (rcv : Word) (i : Nat) :
    (entry (transform path m (bipolar (2 ^ m) rcv)) i).natAbs ≤ 2 ^ m := by
  have hlen := length_bipolar (2 ^ m) rcv
  rw [transform_eq_fht path hlen, fht_eq_fhtStages]
  simpa using natAbs_entry_fhtStages_le hlen (natAbs_entry_bipolar_le _ rcv) le_rfl i

theorem length_transform_bipolar (path : DecPath) (m : Nat) (rcv : Word) :
    (transform path m (bipolar (2 ^ m) rcv)).length = 2 ^ m := by
  rw [transform_eq_fht path (length_bipolar _ _), length_fht, length_bipolar]

end Sys2Proof.Machine
end

section
/-! PROOFS. The peak and the message of a decode (R174, R175), and the result registers kept in range and consistent by
every step (O57, O59). -/

namespace Sys2Proof.Machine

/-! ### The peak -/

@[simp] theorem peak_one (w : List Int) : peak 1 w = 0 := rfl

/-- One more entry replaces the peak only when it is strictly larger in magnitude (R174). -/
theorem peak_succ (k : Nat) (w : List Int) :
    peak (k + 2) w =
      if (entry w (k + 1)).natAbs > (entry w (peak (k + 1) w)).natAbs then k + 1 else peak (k + 1) w := by
  simp [peak, List.range_succ]

/-- The peak stands at an index of the vector. -/
theorem peak_lt {n : Nat} (hn : 0 < n) (w : List Int) : peak n w < n := by
  obtain ⟨k, rfl⟩ := Nat.exists_eq_add_of_lt hn
  rw [Nat.zero_add]
  induction k with
  | zero => simp
  | succ k ih =>
    have := ih (by omega)
    rw [peak_succ]
    split <;> omega

/-- No entry is larger in magnitude than the peak. -/
theorem natAbs_entry_le_peak (n : Nat) (w : List Int) {i : Nat} (hi : i < n) :
    (entry w i).natAbs ≤ (entry w (peak n w)).natAbs := by
  obtain ⟨k, rfl⟩ := Nat.exists_eq_add_of_lt (Nat.zero_lt_of_lt hi)
  rw [Nat.zero_add] at hi ⊢
  induction k with
  | zero =>
    obtain rfl : i = 0 := by omega
    simp
  | succ k ih =>
    rw [peak_succ]
    obtain rfl | hlt := Nat.eq_or_lt_of_le (Nat.le_of_lt_succ hi)
    · split <;> omega
    · have := ih hlt
      split <;> omega

/-- Every entry before the peak is smaller in magnitude. -/
theorem natAbs_entry_lt_peak (n : Nat) (w : List Int) {i : Nat} (hi : i < peak n w) :
    (entry w i).natAbs < (entry w (peak n w)).natAbs := by
  match n with
  | 0 => exact absurd hi (Nat.not_lt_zero i)
  | k + 1 =>
    induction k with
    | zero => exact absurd hi (Nat.not_lt_zero i)
    | succ k ih =>
      rw [peak_succ] at hi ⊢
      split at hi
      · next hlarger =>
        have := natAbs_entry_le_peak (k + 1) w hi
        rw [if_pos hlarger]
        omega
      · next hsmaller =>
        rw [if_neg hsmaller]
        exact ih hi

/-! ### The message -/

/-- DEC is the peak's index above the peak's sign (R175). -/
theorem recover_eq {m p : Nat} (w : List Int) (hp : p < 2 ^ m) :
    recover m w p = zext64 p <<< 1 ||| (if entry w p < 0 then 1 else 0) := by
  refine BitVec.eq_of_getLsbD_eq fun t ht => ?_
  have hsign : ∀ b : Bool, (if b then (1 : Word) else 0).getLsbD t = (decide (t = 0) && b) := by
    intro b
    cases b <;> simp [ht]
  have hsign' := hsign (decide (entry w p < 0))
  simp only [decide_eq_true_eq] at hsign'
  rw [recover, getLsbD_packBits, BitVec.getLsbD_or, hsign', BitVec.getLsbD_shiftLeft, zext64, BitVec.getLsbD_ofNat]
  cases t with
  | zero => simp
  | succ t =>
    have hbit : (decide (t < m) && p.testBit t) = p.testBit t := by
      by_cases htm : t < m
      · simp [htm]
      · rw [Nat.testBit_lt_two_pow (hp.trans_le (Nat.pow_le_pow_right Nat.two_pos (Nat.le_of_not_lt htm))),
          Bool.and_false]
    simp [bit, ht, hbit, show t < 64 by omega]

/-! ### The result invariant -/

theorem State.n_pos (s : State) : 0 < s.n := Nat.two_pow_pos _

/-- A sound block has at most 64 columns (R3, R4). -/
theorem State.ConfigInv.n_le {s : State} (hs : s.ConfigInv) : s.n ≤ 64 :=
  Nat.pow_le_pow_right (by omega) hs.confM_le_six

theorem strayBits_packBits (n : Nat) (f : Nat → Bool) : strayBits (packBits n f) n = false := by
  have hlt : (packBits n f).toNat < 2 ^ n := by
    rw [packBits, BitVec.toNat_ofNat]
    exact (Nat.mod_le _ _).trans_lt (packNat_lt n f)
  simp [strayBits, field, Nat.shiftRight_eq_div_pow, Nat.div_eq_of_lt hlt]

theorem State.ResultInv.congr {s t : State} (hc : SameConfig s t) (hr : SameResults s t) (hs : s.ResultInv) :
    t.ResultInv := by
  obtain ⟨-, hv, hm, -⟩ := hc
  obtain ⟨hcw, hdec, hidx, hval, hkres, hcorr⟩ := hr
  have hn : t.n = s.n := by rw [State.n, State.n, hm]
  have hread : ∀ i, t.readReg (.corr i) = s.readReg (.corr i) := by simp [State.readReg, hcorr]
  constructor
  · rw [hv, hcw, hdec, hidx, hval, hkres, hcorr]; exact hs.cleared
  · rw [hcw, hn]; exact hs.codeword_fits
  · rw [hkres]; exact hs.stage_entry
  · simpa only [hread, hn] using hs.corr_bound
  · simpa only [hread, hn] using hs.corr_above
  · rw [hidx, hn]; exact hs.peak_below
  · rw [hval, hidx, hread]; exact hs.peak_value
  · simpa only [hread, hval] using hs.peak_largest
  · simpa only [hread, hval, hidx] using hs.peak_first
  · rw [hdec, hidx, hval]; exact hs.decoded

/-- All results 0, as reset and a successful CFG leave them, meet the invariant for every configuration (R49, R107). -/
theorem State.ResultInv.of_cleared {t : State} (h : SameResults State.reset t) : t.ResultInv := by
  obtain ⟨hcw, hdec, hidx, hval, hkres, hcorr⟩ := h
  simp only [State.reset] at hcw hdec hidx hval hkres hcorr
  have hread : ∀ i, t.readReg (.corr i) = 0 := by simp [State.readReg, hcorr]
  constructor
  · exact fun _ => ⟨hcw, hdec, hidx, hval, hkres, hcorr⟩
  · simp [hcw, strayBits, field]
  · exact .inl hkres
  · simp [hread]
  · exact fun i _ => hread i
  · simpa [hidx] using t.n_pos
  · rw [hval, hread]
  · simp [hread]
  · simp [hidx]
  · simp [hdec, hidx, hval]

/-- Settles O57: reset leaves no code, every result 0, and no host. -/
theorem resetMeetsTheInvariants : Obligations.ResetMeetsTheInvariants := by
  refine ⟨⟨by decide, fun _ => ⟨rfl, rfl⟩, fun h => absurd h (by decide)⟩, ?_, rfl⟩
  exact .of_cleared ⟨rfl, rfl, rfl, rfl, rfl, rfl⟩

/-- The correlations a decode can leave: one for each of the n columns, none larger than n in magnitude. -/
structure Correlations (n : Nat) (w : List Int) : Prop where
  length : w.length = n
  bound : ∀ i, (entry w i).natAbs ≤ n

theorem correlations_transform (path : DecPath) (m : Nat) (rcv : Word) :
    Correlations (2 ^ m) (transform path m (bipolar (2 ^ m) rcv)) :=
  ⟨length_transform_bipolar path m rcv, natAbs_entry_transform_le path m rcv⟩

/-- A correlation reads back from its register as itself (R37). -/
theorem Correlations.toInt_sext64 {n : Nat} {w : List Int} (hw : Correlations n w) (hn : n ≤ 64) (i : Nat) :
    (sext64 (entry w i)).toInt = entry w i := by
  have := hw.bound i
  exact Machine.toInt_sext64 (by omega) (by omega)

/-- After a decode CORR[i] is the correlation i, and 0 where there is none (R37, R176). -/
theorem Correlations.readReg_corr {s : State} {w : List Int} (hw : Correlations s.n w) (hn : s.n ≤ 64) (i : Nat) :
    (s.writeDecode w).readReg (.corr i) = sext64 (entry w i) := by
  have habove : s.n ≤ i → entry w i = 0 := fun h => entry_of_length_le (hw.length ▸ h)
  by_cases hi : i < s.n
  · simp [State.readReg, hi, hi.trans_le hn]
  · simp [State.readReg, hi, habove (Nat.le_of_not_lt hi), sext64]

/-- A decode of a configured block leaves results that belong together (R174 to R176). -/
theorem State.ResultInv.writeDecode {s : State} (hs : s.ResultInv) (hv : s.confValid = true) (hn : s.n ≤ 64)
    {w : List Int} (hw : Correlations s.n w) : (s.writeDecode w).ResultInv := by
  have hp : peak s.n w < s.n := peak_lt s.n_pos w
  have hread := hw.readReg_corr hn
  have hint := hw.toInt_sext64 hn
  have hidx : (zext64 (peak s.n w)).toNat = peak s.n w := by
    rw [toNat_zext64, Nat.mod_eq_of_lt (by omega)]
  have hzero : ∀ i, s.n ≤ i → entry w i = 0 := fun i h => entry_of_length_le (hw.length ▸ h)
  constructor
  · intro h
    simp [hv] at h
  · exact hs.codeword_fits
  · exact hs.stage_entry
  · intro i
    rw [hread, hint]
    exact hw.bound i
  · intro i hi
    rw [hread, hzero i hi]
    rfl
  · rw [State.writeDecode_peakIdx, hidx]
    exact hp
  · rw [State.writeDecode_peakIdx, State.writeDecode_peakVal, hread, hidx]
  · intro i
    rw [State.writeDecode_peakVal, hread, hint, hint]
    by_cases hi : i < s.n
    · exact natAbs_entry_le_peak s.n w hi
    · simp [hzero i (Nat.le_of_not_lt hi)]
  · intro i hi
    rw [State.writeDecode_peakIdx, hidx] at hi
    rw [State.writeDecode_peakVal, hread, hint, hint]
    exact natAbs_entry_lt_peak s.n w hi
  · rw [State.writeDecode_dec, State.writeDecode_peakIdx, State.writeDecode_peakVal, hint]
    exact recover_eq w hp

/-- A codeword fits the block's n bits (R31). -/
theorem State.ResultInv.encode {s : State} (hs : s.ResultInv) (hv : s.confValid = true) (g : List Word) (k : Nat)
    (msg : Word) : State.ResultInv { s with cw := encodeWith g s.n k msg } :=
  { hs with
    cleared := fun h => absurd h (by simp [hv])
    codeword_fits := strayBits_packBits s.n _ }

/-- The entries of a stage matrix are 0, 1 and -1 (R147). -/
theorem kstage_values (i a b : Nat) : kstage i a b = 0 ∨ kstage i a b = 1 ∨ kstage i a b = -1 := by
  unfold kstage
  split
  · exact .inl rfl
  · split
    · exact .inr (.inr rfl)
    · exact .inr (.inl rfl)

/-- A stage entry is one of the three values of KRES (R35). -/
theorem State.ResultInv.kent {s : State} (hs : s.ResultInv) (hv : s.confValid = true) (stage row col : Nat) :
    State.ResultInv { s with kres := sext64 (kstage stage row col) } :=
  { hs with
    cleared := fun h => absurd h (by simp [hv])
    stage_entry := by obtain h | h | h := kstage_values stage row col <;> simp [h] }

/-- Completing a command writes no result (R43). -/
theorem State.ResultInv.finish {s : State} (hs : s.ResultInv) (e : ErrCode) : (s.finish e).ResultInv :=
  hs.congr (.finish s e) (.finish s e)

/-- Every command keeps the results sound. -/
theorem State.ResultInv.exec {i : Instr} {s t : State} (hc : s.ConfigInv) (hs : s.ResultInv)
    (h : exec i s = .next t) : t.ResultInv := by
  obtain ⟨l, -, ⟨e, rfl, -⟩ | ⟨-, rfl⟩ | ⟨m, -, -, -, rfl⟩ | ⟨len, -, hv, -, -, rfl⟩ | ⟨path, len, -, hv, -, rfl⟩ |
    ⟨stage, row, col, -, hv, -, -, -, -, rfl⟩⟩ := exec_eq_next_cases h
  · exact hs.finish e
  · exact hs.finish .none
  · exact .of_cleared ⟨rfl, rfl, rfl, rfl, rfl, rfl⟩
  · exact (hs.encode hv s.gmat s.k l.msg).finish .none
  · exact (hs.writeDecode hv hc.n_le (correlations_transform path s.confM l.rcv)).finish .none
  · exact (hs.kent hv stage row col).finish .none

/-- Every agent's turn keeps the results sound. -/
theorem State.ResultInv.takeTurn {a : Turn} {s t : State} (hc : s.ConfigInv) (hs : s.ResultInv)
    (h : takeTurn a s = .next t) : t.ResultInv := by
  cases a with
  | host i => exact hs.congr (.of_hostStep h) (.of_hostStep h)
  | engine =>
    obtain ⟨-, rfl⟩ | ⟨l, -, ⟨i, -, hi⟩ | ⟨r, -, rfl⟩⟩ := engineStep_cases h
    · exact hs
    · exact hs.exec hc hi
    · exact hs.finish _
  | reset =>
    obtain rfl : s.resetBlock = t := by simpa [Machine.takeTurn] using h
    exact .of_cleared ⟨rfl, rfl, rfl, rfl, rfl, rfl⟩

/-- Settles O59: a step is one agent's turn, and each keeps the results sound. -/
theorem stepKeepsTheResultInvariant : Obligations.StepKeepsTheResultInvariant := by
  intro s t hc hs hstep
  obtain ⟨-, rfl⟩ | ⟨a, -, hturn⟩ := step_cases hstep
  · exact hs
  · have hpop : s.popTurn.ResultInv := hs.congr (.popTurn s) (.popTurn s)
    exact hpop.takeTurn (hc.congr (.popTurn s)) hturn

end Sys2Proof.Machine
end

section
/-! PROOFS. Host accesses: the image of a register on the bus (O16), which writes react (O15), and what a host's read
or write does, legal (O17, O18) or not (O19). -/

namespace Sys2Proof.Machine

/-! ### The image of a register -/

@[simp] theorem length_bytesOfWord (v : Word) : (bytesOfWord v).length = 8 := by simp [bytesOfWord]

@[simp] theorem getElem?_bytesOfWord (v : Word) {b : Nat} (hb : b < 8) :
    (bytesOfWord v)[b]? = some (v.extractLsb' (8 * b) 8) := by
  simp [bytesOfWord, hb]

/-- Bit j of an assembled value is bit j % 8 of byte j / 8, the lowest address first (R65). -/
theorem getLsbD_wordOfBytes (bs : List Byte) {j : Nat} (hj : j < 64) :
    (wordOfBytes bs).getLsbD j = (bs.getD (j / 8) 0).getLsbD (j % 8) := by
  induction bs generalizing j with
  | nil => simp [wordOfBytes]
  | cons b bs ih =>
    have hcons : wordOfBytes (b :: bs) = wordOfBytes bs <<< 8 ||| b.setWidth 64 := rfl
    rw [hcons, BitVec.getLsbD_or, BitVec.getLsbD_shiftLeft, BitVec.getLsbD_setWidth]
    by_cases hlow : j < 8
    · simp [hj, hlow, Nat.div_eq_of_lt hlow, Nat.mod_eq_of_lt hlow]
    · obtain ⟨i, rfl⟩ := Nat.exists_eq_add_of_le' (Nat.le_of_not_lt hlow)
      simp [hj, ih (j := i) (by omega)]

/-- The image of a value gives it back (R65). -/
@[simp] theorem wordOfBytes_bytesOfWord (v : Word) : wordOfBytes (bytesOfWord v) = v := by
  refine BitVec.eq_of_getLsbD_eq fun j hj => ?_
  have hbyte : j / 8 < 8 := by omega
  have hbit : j % 8 < 8 := by omega
  rw [getLsbD_wordOfBytes _ hj, List.getD_eq_getElem?_getD, getElem?_bytesOfWord v hbyte, Option.getD_some,
    BitVec.getLsbD_extractLsb', Nat.div_add_mod]
  simp [hbit]

/-- Settles O16: an image has the bytes that `bytesOfWord` cuts out, and `wordOfBytes` puts them together again. -/
theorem registerImageIsLittleEndian : Obligations.RegisterImageIsLittleEndian :=
  fun v => ⟨length_bytesOfWord v, fun _ hb => getElem?_bytesOfWord v hb, wordOfBytes_bytesOfWord v⟩

/-! ### Writes of the other registers -/

/-- Off the offsets of CMD, STATUS, MSG and RCV every register ignores a write (R38, R39). -/
theorem State.writeReg_ofOffset_ignored (s : State) (v : Word) {off : Nat} (hcmd : off ≠ 0x008)
    (hstatus : off ≠ 0x010) (hmsg : off ≠ 0x020) (hrcv : off ≠ 0x028) : s.writeReg (Reg.ofOffset off) v = s := by
  simp only [Reg.ofOffset, if_neg hcmd, if_neg hstatus, if_neg hmsg, if_neg hrcv, apply_ite (s.writeReg · v)]
  simp only [State.writeReg, ite_self]

/-- Settles O15: the two stores by evaluation, the rest by the register map. -/
theorem operandWritesStoreAndOtherWritesAreIgnored : Obligations.OperandWritesStoreAndOtherWritesAreIgnored :=
  fun s v => ⟨rfl, rfl, fun _ _ _ => s.writeReg_ofOffset_ignored v⟩

/-! ### An access of a host -/

theorem accessOffset_outside {c : Config} {addr : Nat} (count : Nat) (h : addr < c.base ∨ c.base + 4096 ≤ addr) :
    accessOffset c addr count = .refused .outsideWindow := by
  rw [accessOffset, if_pos h]

theorem accessOffset_width {c : Config} {addr count : Nat} (h₁ : c.base ≤ addr) (h₂ : addr < c.base + 4096)
    (hcount : count ≠ 8) : accessOffset c addr count = .fault .accessWidth := by
  rw [accessOffset, if_neg (by omega), if_pos hcount]

theorem accessOffset_alignment {c : Config} {addr : Nat} (h₁ : c.base ≤ addr) (h₂ : addr < c.base + 4096)
    (hoff : (addr - c.base) % 8 ≠ 0) : accessOffset c addr 8 = .fault .accessAlignment := by
  rw [accessOffset, if_neg (by omega), if_neg (by omega), if_pos hoff]

/-- The outcome of an access that leads to `f off` at a legal offset, and stops where it has none (R61 to R64). -/
def atOffset (f : Nat → State) : Host.Outcome Nat Fault Refusal → Host.Outcome State Fault Refusal
  | .next off => .next (f off)
  | .fault r => .fault r
  | .refused r => .refused r

theorem busWrite_eq_atOffset (s : State) (addr : Nat) (data : List Byte) :
    busWrite s addr data =
      atOffset (fun off => s.writeReg (Reg.ofOffset off) (wordOfBytes data)) (accessOffset s.cfg addr data.length) := by
  unfold busWrite
  cases accessOffset s.cfg addr data.length <;> rfl

/-- Host `h` has read `bs` and goes on as `prog` says. -/
def State.hostReceives (s : State) (h : Nat) (b : BusHost) (prog : List Byte → List HostOp) (bs : List Byte) :
    State :=
  s.setHost h { prog := prog bs, reads := b.reads ++ [bs] }

theorem hostRead_eq_atOffset (s : State) (h : Nat) (b : BusHost) (addr count : Nat) (prog : List Byte → List HostOp) :
    hostRead s h b addr count prog =
      atOffset (fun off => s.hostReceives h b prog (bytesOfWord (s.readReg (Reg.ofOffset off))))
        (accessOffset s.cfg addr count) := by
  unfold hostRead busRead
  cases accessOffset s.cfg addr count <;> rfl

section HostTurn

variable {s : State} {h : Nat} {b : BusHost} {rest : List HostOp} {ts : List Turn} {addr count : Nat} {data : List Byte}

/-- The turn of a host with an operation left is that operation (R69). -/
theorem step_of_write (hts : s.schedule = .host h :: ts) (hb : s.hosts[h]? = some b)
    (hprog : b.prog = .write addr data :: rest) :
    step s = busWrite (s.popTurn.setHost h { b with prog := rest }) addr data := by
  simp [step_of_schedule hts, takeTurn, hostStep, hb, hprog]

theorem step_of_read (hts : s.schedule = .host h :: ts) (hb : s.hosts[h]? = some b)
    (hprog : b.prog = .read addr count :: rest) :
    step s = hostRead s.popTurn h b addr count fun _ => rest := by
  simp [step_of_schedule hts, takeTurn, hostStep, hb, hprog]

/-- Whatever the access, its first byte and its width decide whether the step answers (R61 to R64). -/
theorem exists_step_eq_atOffset {op : HostOp} (hts : s.schedule = .host h :: ts) (hb : s.hosts[h]? = some b)
    (hprog : b.prog = op :: rest)
    (hop : op = .read addr count ∨ ∃ data : List Byte, op = .write addr data ∧ data.length = count) :
    ∃ f, step s = atOffset f (accessOffset s.cfg addr count) := by
  obtain rfl | ⟨data, rfl, rfl⟩ := hop
  · exact ⟨_, (step_of_read hts hb hprog).trans (hostRead_eq_atOffset ..)⟩
  · exact ⟨_, (step_of_write hts hb hprog).trans (busWrite_eq_atOffset ..)⟩

end HostTurn

/-- Settles O17: a read at an offset of the window gives the bytes of the register's image. -/
theorem hostReadReturnsTheRegister : Obligations.HostReadReturnsTheRegister := by
  constructor
  · intro s h b off rest ts hts hb hprog hwin halign
    have hoff : accessOffset s.popTurn.cfg (s.cfg.base + off) 8 = .next off := accessOffset_window hwin halign
    rw [step_of_read hts hb hprog, hostRead_eq_atOffset, hoff, State.popTurn, hts]
    rfl
  · exact fun s => ⟨rfl, rfl, rfl, rfl, rfl, rfl, rfl, fun i hi => by simp [State.readReg, hi]⟩

/-- Settles O18: the bytes written are the value's image, from which the block assembles the value again. -/
theorem hostWriteReachesTheRegister : Obligations.HostWriteReachesTheRegister := by
  intro s h b off v rest ts hts hb hprog hwin halign
  have hoff : accessOffset s.cfg (s.cfg.base + off) (bytesOfWord v).length = .next off := by
    rw [length_bytesOfWord]
    exact accessOffset_window hwin halign
  rw [step_of_write hts hb hprog, busWrite_eq_atOffset, wordOfBytes_bytesOfWord, State.popTurn, hts]
  exact congrArg (atOffset _) hoff

/-- Settles O19: the step stops as `accessOffset` does, in its three cases. -/
theorem illegalAccessesStop : Obligations.IllegalAccessesStop := by
  intro s h b op rest ts addr count hts hb hprog hop
  obtain ⟨f, hstep⟩ := exists_step_eq_atOffset hts hb hprog hop
  rw [hstep]
  refine ⟨fun h₁ h₂ hcount => ?_, fun h₁ h₂ hcount hoff => ?_, fun hout => ?_⟩
  · rw [accessOffset_width h₁ h₂ hcount, atOffset]
  · rw [hcount, accessOffset_alignment h₁ h₂ hoff, atOffset]
  · rw [accessOffset_outside count hout, atOffset]

end Sys2Proof.Machine
end

section
/-! PROOFS. A command's operands are the latched ones: its effect does not depend on MSG and RCV (O42). -/

namespace Sys2Proof.Machine

/-- `s` with other values in MSG and RCV. -/
def State.withOperands (s : State) (msg rcv : Word) : State := { s with msg := msg, rcv := rcv }

/-- A meaning that commutes with changing MSG and RCV on every latch does so as a whole (R43, R72). -/
theorem onLatch_withOperands {s : State} {msg rcv : Word} {f g : Latch → State}
    (h : ∀ l, g l = (f l).withOperands msg rcv) :
    onLatch (s.withOperands msg rcv) g = mapNext (·.withOperands msg rcv) (onLatch s f) := by
  have hinflight : (s.withOperands msg rcv).inflight = s.inflight := rfl
  unfold onLatch
  rw [hinflight]
  cases s.inflight with
  | none => rfl
  | some l => exact congrArg _ (h l)

/-- A decode takes its vector from the latch (R170). -/
theorem decodeWith_withOperands (path : DecPath) (len : Nat) (s : State) (msg rcv : Word) (l : Latch) :
    decodeWith path len (s.withOperands msg rcv) l = (decodeWith path len s l).withOperands msg rcv := by
  simp only [decodeWith, apply_ite (State.withOperands · msg rcv)]
  rfl

/-- Every command commutes with changing MSG and RCV: its checks and results come from the latch and the instance. -/
theorem exec_withOperands (i : Instr) (s : State) (msg rcv : Word) :
    exec i (s.withOperands msg rcv) = mapNext (·.withOperands msg rcv) (exec i s) := by
  cases i with
  | nop => exact onLatch_withOperands fun _ => rfl
  | cfg m =>
    refine onLatch_withOperands fun _ => ?_
    rw [apply_ite (State.withOperands · msg rcv)]
    rfl
  | enc len =>
    refine onLatch_withOperands fun _ => ?_
    simp only [apply_ite (State.withOperands · msg rcv)]
    rfl
  | decFht len => exact onLatch_withOperands (decodeWith_withOperands .fht len s msg rcv)
  | decKron len => exact onLatch_withOperands (decodeWith_withOperands .kron len s msg rcv)
  | kent stage row col =>
    refine onLatch_withOperands fun _ => ?_
    simp only [apply_ite (State.withOperands · msg rcv)]
    rfl

/-- Settles O42: each command commutes with changing MSG and RCV. -/
theorem commandsUseOnlyTheLatchedOperands : Obligations.CommandsUseOnlyTheLatchedOperands := by
  intro i s msg rcv
  refine (exec_withOperands i s msg rcv).trans ?_
  cases exec i s <;> rfl

end Sys2Proof.Machine
end

section
/-! PROOFS. The command word: decoder and encoder are inverse (O1, O2, O3), the decoder and the opcode map agree (O4),
and which values are ILLEGAL (O5). -/

namespace Sys2Proof

/-! ### What the decoder reads -/

/-- `v` has the command's format, bit for bit: OPC, the bits shown as 0, and the command's own fields (R82 to R85). -/
def Instr.IsReadFrom (v : Word) : Instr → Prop
  | .nop => field v 3 0 = 0 ∧ field v 31 4 = 0
  | .cfg m => field v 3 0 = 1 ∧ field v 31 12 = 0 ∧ field v 7 4 = 0 ∧ field v 11 8 = m
  | .enc len => field v 3 0 = 2 ∧ field v 31 15 = 0 ∧ field v 7 4 = 0 ∧ field v 14 8 = len
  | .decFht len => field v 3 0 = 3 ∧ field v 31 15 = 0 ∧ field v 7 5 = 0 ∧ field v 4 4 = 0 ∧ field v 14 8 = len
  | .decKron len => field v 3 0 = 3 ∧ field v 31 15 = 0 ∧ field v 7 5 = 0 ∧ field v 4 4 ≠ 0 ∧ field v 14 8 = len
  | .kent stage row col =>
    field v 3 0 = 4 ∧ field v 31 30 = 0 ∧ field v 23 22 = 0 ∧ field v 15 12 = 0 ∧ field v 7 4 = 0 ∧
      field v 11 8 = stage ∧ field v 21 16 = row ∧ field v 29 24 = col

/-- A check that answers `x` when it passes. -/
theorem ite_ok_eq_ok_iff {ε α : Type} {c : Prop} [Decidable c] {e : ε} {x y : α} :
    (if c then Except.ok x else .error e) = .ok y ↔ c ∧ x = y := by
  split <;> simp [*]

theorem exists_ite_ok_eq_error_iff {ε α : Type} {c : Prop} [Decidable c] {e : ε} {x : α} :
    (∃ r, (if c then Except.ok x else .error e) = .error r) ↔ ¬ c := by
  split <;> simp [*]

/-- A value decodes to the command whose format it has (R91). -/
theorem decode_eq_ok_iff {v : Word} {i : Instr} : decode v = .ok i ↔ field v 63 32 = 0 ∧ i.IsReadFrom v := by
  constructor
  · intro h
    unfold decode at h
    split at h
    · cases h
    next hhigh =>
      refine ⟨not_not.1 hhigh, ?_⟩
      split at h
      case h_1 hopc =>
        obtain ⟨hzero, rfl⟩ := ite_ok_eq_ok_iff.1 h
        exact ⟨hopc, hzero⟩
      case h_2 hopc | h_3 hopc =>
        obtain ⟨⟨h₁, h₂⟩, rfl⟩ := ite_ok_eq_ok_iff.1 h
        exact ⟨hopc, h₁, h₂, rfl⟩
      case h_4 hopc =>
        rw [← apply_ite Except.ok] at h
        obtain ⟨⟨h₁, h₂⟩, rfl⟩ := ite_ok_eq_ok_iff.1 h
        split
        next hpath => exact ⟨hopc, h₁, h₂, hpath, rfl⟩
        next hpath => exact ⟨hopc, h₁, h₂, hpath, rfl⟩
      case h_5 hopc =>
        obtain ⟨⟨h₁, h₂, h₃, h₄⟩, rfl⟩ := ite_ok_eq_ok_iff.1 h
        exact ⟨hopc, h₁, h₂, h₃, h₄, rfl, rfl, rfl⟩
      case h_6 => cases h
  · rintro ⟨hhigh, hread⟩
    cases i <;> simp_all [decode, Instr.IsReadFrom]

/-- The checks of the decoder that a value can fail (R88, R89, R91). -/
theorem decode_eq_error_iff (v : Word) :
    (∃ r, decode v = .error r) ↔
      5 ≤ field v 3 0 ∨ field v 63 32 ≠ 0 ∨
      (field v 3 0 = 0 ∧ field v 31 4 ≠ 0) ∨
      (field v 3 0 = 1 ∧ (field v 31 12 ≠ 0 ∨ field v 7 4 ≠ 0)) ∨
      (field v 3 0 = 2 ∧ (field v 31 15 ≠ 0 ∨ field v 7 4 ≠ 0)) ∨
      (field v 3 0 = 3 ∧ (field v 31 15 ≠ 0 ∨ field v 7 5 ≠ 0)) ∨
      (field v 3 0 = 4 ∧ (field v 31 30 ≠ 0 ∨ field v 23 22 ≠ 0 ∨ field v 15 12 ≠ 0 ∨ field v 7 4 ≠ 0)) := by
  unfold decode
  split
  next hhigh => exact ⟨fun _ => .inr (.inl hhigh), fun _ => ⟨_, rfl⟩⟩
  next hhigh =>
    split
    case h_6 h₀ h₁ h₂ h₃ h₄ =>
      have hopc : 5 ≤ field v 3 0 := by grind
      exact ⟨fun _ => .inl hopc, fun _ => ⟨_, rfl⟩⟩
    all_goals
      simp only [← apply_ite Except.ok, exists_ite_ok_eq_error_iff]
      omega

/-! ### The command word as a number -/

/-- The value of a command's word: each field times the weight of its lowest bit (R82 to R85). -/
def Instr.wordValue : Instr → Nat
  | .nop => 0x00
  | .cfg m => 0x01 + m * 2 ^ 8
  | .enc len => 0x02 + len * 2 ^ 8
  | .decFht len => 0x03 + len * 2 ^ 8
  | .decKron len => 0x13 + len * 2 ^ 8
  | .kent stage row col => 0x04 + stage * 2 ^ 8 + row * 2 ^ 16 + col * 2 ^ 24

/-- A field above all the bits of `x` adds to it. -/
theorem or_shiftLeft_eq_add {x i : Nat} (hx : x < 2 ^ i) (y : Nat) : x ||| y <<< i = x + y * 2 ^ i := by
  rw [Nat.or_comm, ← Nat.shiftLeft_add_eq_or_of_lt hx, Nat.shiftLeft_eq, Nat.add_comm]

/-- The fields of a well-formed command do not overlap in its word. -/
theorem encode_eq_wordValue {i : Instr} (h : i.wellFormed = true) : encode i = BitVec.ofNat 64 i.wordValue := by
  cases i with
  | kent stage row col =>
    obtain ⟨⟨hstage, hrow⟩, -⟩ : (stage ≤ 15 ∧ row ≤ 63) ∧ col ≤ 63 := by simpa [Instr.wellFormed] using h
    have hlow : 0x04 ||| stage <<< 8 = 0x04 + stage * 2 ^ 8 := or_shiftLeft_eq_add (by decide) stage
    rw [encode, hlow, or_shiftLeft_eq_add (i := 16) (by omega), or_shiftLeft_eq_add (i := 24) (by omega)]
    rfl
  | nop => rfl
  | _ => rw [encode, or_shiftLeft_eq_add (by decide)]; rfl

theorem Instr.wordValue_lt {i : Instr} (h : i.wellFormed = true) : i.wordValue < 2 ^ 32 := by
  cases i <;>
    simp only [Instr.wellFormed, Instr.wordValue, Bool.and_eq_true, decide_eq_true_eq] at h ⊢ <;>
    omega

theorem encode_eq_iff {v : Word} {i : Instr} (h : i.wellFormed = true) : encode i = v ↔ v.toNat = i.wordValue := by
  have hlt : i.wordValue < 2 ^ 64 := (Instr.wordValue_lt h).trans (by decide)
  rw [encode_eq_wordValue h, ← BitVec.toNat_inj, BitVec.toNat_ofNat, Nat.mod_eq_of_lt hlt, eq_comm]

/-! ### Decoding and encoding -/

theorem field_eq_div_mod (v : Word) (hi lo : Nat) : field v hi lo = v.toNat / 2 ^ lo % 2 ^ (hi + 1 - lo) := by
  rw [field, Nat.shiftRight_eq_div_pow]

/-- A value's low half has a command's format exactly when it is the command's word: the format's fields tile the half,
so they fix it, and each field of the word is what was put there. -/
theorem Instr.isReadFrom_iff (v : Word) (i : Instr) :
    field v 63 32 = 0 ∧ i.IsReadFrom v ↔ i.wellFormed = true ∧ v.toNat = i.wordValue := by
  have hv := v.isLt
  cases i <;>
    simp only [Instr.IsReadFrom, Instr.wellFormed, Instr.wordValue, field_eq_div_mod, Bool.and_eq_true,
      decide_eq_true_eq, true_and, Nat.reduceAdd, Nat.reduceSub] <;>
    omega

/-- The values that decode to a command are its word, and it has one if it is well formed (R91, R92). -/
theorem decode_eq_ok_iff_encode {v : Word} {i : Instr} : decode v = .ok i ↔ i.wellFormed = true ∧ encode i = v :=
  decode_eq_ok_iff.trans <| (i.isReadFrom_iff v).trans <| and_congr_right fun h => (encode_eq_iff h).symm

/-- Settles O2: `decode_eq_ok_iff_encode`, at the command's own word. -/
theorem decodeOfEncodeIsTheCommand : Obligations.DecodeOfEncodeIsTheCommand :=
  fun _ h => decode_eq_ok_iff_encode.2 ⟨h, rfl⟩

/-- Settles O3: `decode_eq_ok_iff_encode`, from left to right. -/
theorem encodeOfDecodeIsTheValue : Obligations.EncodeOfDecodeIsTheValue :=
  fun _ _ => decode_eq_ok_iff_encode.1

/-- Settles O1: by evaluation. -/
theorem wordsFromTheFormatsDecode : Obligations.WordsFromTheFormatsDecode :=
  ⟨rfl, rfl, rfl, rfl, rfl, rfl⟩

/-! ### The opcode map -/

theorem field_and (v w : Word) (hi lo : Nat) : field (v &&& w) hi lo = field v hi lo &&& field w hi lo := by
  rw [field, BitVec.toNat_and, Nat.shiftRight_and_distrib, Nat.and_mod_two_pow, field, field]

/-- A field of which the mask keeps every bit is not changed by the mask. -/
theorem field_and_of_covered {v mask : Word} {hi lo : Nat} (h : field mask hi lo = 2 ^ (hi + 1 - lo) - 1) :
    field (v &&& mask) hi lo = field v hi lo := by
  rw [field_and, h, Nat.and_two_pow_sub_one_eq_mod, field, Nat.mod_mod]

/-- A value that selects a row is the row's match value under its mask, and 0 above (R87). -/
theorem OpcodeRow.and_mask_of_selectedBy {r : OpcodeRow} {v : Word} (h : r.selectedBy v = true) :
    v &&& r.mask.setWidth 64 = r.pattern.setWidth 64 ∧ field v 63 32 = 0 := by
  obtain ⟨hlow, hhigh⟩ : v.setWidth 32 &&& r.mask = r.pattern ∧ v >>> 32 = 0 := by simpa [selectedBy] using h
  constructor
  · rw [← hlow]
    refine BitVec.eq_of_getLsbD_eq fun b hb => ?_
    by_cases hlt : b < 32
    · simp [hb, hlt]
    · simp [hlt, BitVec.getLsbD_of_ge r.mask b (Nat.le_of_not_lt hlt)]
  · rw [field, ← BitVec.toNat_ushiftRight, hhigh]
    rfl

/-- What the mask of a selected row covers is as the row says (R87). -/
theorem OpcodeRow.field_of_selectedBy {r : OpcodeRow} {v : Word} {hi lo : Nat} (h : r.selectedBy v = true)
    (hcover : field (r.mask.setWidth 64) hi lo = 2 ^ (hi + 1 - lo) - 1) :
    field v hi lo = field (r.pattern.setWidth 64) hi lo := by
  rw [← field_and_of_covered hcover, (and_mask_of_selectedBy h).1]

/-- A value that selects a row decodes to one of the row's commands: the mask covers every bit that decoding checks. -/
theorem OpcodeRow.exists_decode_of_selectedBy {r : OpcodeRow} {v : Word} (hr : r ∈ opcodeMap)
    (h : r.selectedBy v = true) : ∃ i, decode v = .ok i ∧ i.op = r.op := by
  have hhigh := (and_mask_of_selectedBy h).2
  have hfield {hi lo : Nat} := field_of_selectedBy (hi := hi) (lo := lo) h
  simp only [opcodeMap, List.mem_cons, List.not_mem_nil, or_false] at hr
  obtain rfl | rfl | rfl | rfl | rfl | rfl := hr
  · exact ⟨.nop, decode_eq_ok_iff.2 ⟨hhigh, hfield rfl, hfield rfl⟩, rfl⟩
  · exact ⟨.cfg _, decode_eq_ok_iff.2 ⟨hhigh, hfield rfl, hfield rfl, hfield rfl, rfl⟩, rfl⟩
  · exact ⟨.enc _, decode_eq_ok_iff.2 ⟨hhigh, hfield rfl, hfield rfl, hfield rfl, rfl⟩, rfl⟩
  · exact ⟨.decFht _, decode_eq_ok_iff.2 ⟨hhigh, hfield rfl, hfield rfl, hfield rfl, hfield rfl, rfl⟩, rfl⟩
  · have hpath : field v 4 4 = 1 := hfield rfl
    exact ⟨.decKron _, decode_eq_ok_iff.2 ⟨hhigh, hfield rfl, hfield rfl, hfield rfl, by omega, rfl⟩, rfl⟩
  · exact ⟨.kent _ _ _, decode_eq_ok_iff.2
      ⟨hhigh, hfield rfl, hfield rfl, hfield rfl, hfield rfl, hfield rfl, rfl, rfl, rfl⟩, rfl⟩

/-- Every command that has a word selects its own row by it. -/
theorem exists_row_selectedBy_encode (i : Instr) : Laws.EncodedRow.Statement i := by
  cases i with
  | nop => exact Laws.EncodedRow.nop
  | cfg m => exact Laws.EncodedRow.cfg m
  | enc len => exact Laws.EncodedRow.enc len
  | decFht len => exact Laws.EncodedRow.decFht len
  | decKron len => exact Laws.EncodedRow.decKron len
  | kent stage row col => exact Laws.EncodedRow.kent stage row col

theorem eq_of_op_eq_of_mem_opcodeMap : ∀ r ∈ opcodeMap, ∀ r' ∈ opcodeMap, r.op = r'.op → r = r' := by
  decide

theorem filter_op_opcodeMap (o : Op) : (opcodeMap.filter fun r => r.op == o).map (fun r => r.op) = [o] := by
  cases o <;> rfl

/-- The row of the decoded command is the one selected. -/
theorem OpcodeRow.selectedBy_eq_of_decode {r : OpcodeRow} {v : Word} {i : Instr} (hr : r ∈ opcodeMap)
    (hi : decode v = .ok i) : r.selectedBy v = (r.op == i.op) := by
  rw [Bool.eq_iff_iff, beq_iff_eq]
  constructor
  · intro hsel
    obtain ⟨i', hi', hop⟩ := exists_decode_of_selectedBy hr hsel
    obtain rfl : i = i' := Except.ok.inj (hi.symm.trans hi')
    exact hop.symm
  · intro hop
    obtain ⟨hwf, rfl⟩ := decode_eq_ok_iff_encode.1 hi
    obtain ⟨r', hr', hop', hsel⟩ := exists_row_selectedBy_encode i hwf
    rwa [eq_of_op_eq_of_mem_opcodeMap r hr r' hr' (hop.trans hop'.symm)]

/-- Settles O4: the rows selected are the rows of the decoded command's name, and each name has one row. -/
theorem decoderAgreesWithTheOpcodeMap : Obligations.DecoderAgreesWithTheOpcodeMap := by
  intro v
  cases hv : decode v with
  | ok i =>
    rw [List.filter_congr fun r hr => OpcodeRow.selectedBy_eq_of_decode hr hv]
    exact filter_op_opcodeMap i.op
  | error e =>
    rw [List.filter_eq_nil_iff.2 ?_, List.map_nil]
    intro r hr hsel
    obtain ⟨i, hi, -⟩ := OpcodeRow.exists_decode_of_selectedBy hr hsel
    cases hv.symm.trans hi

/-! ### ILLEGAL values -/

theorem testBit_field (v : Word) (hi lo j : Nat) :
    (field v hi lo).testBit j = (decide (j < hi + 1 - lo) && v.getLsbD (lo + j)) := by
  rw [field, Nat.testBit_mod_two_pow, Nat.testBit_shiftRight, BitVec.testBit_toNat]

/-- A field is not 0 when one of its bits is set. -/
theorem field_ne_zero_iff (v : Word) (hi lo : Nat) :
    field v hi lo ≠ 0 ↔ ∃ b, b < 64 ∧ v.getLsbD b = true ∧ lo ≤ b ∧ b ≤ hi := by
  constructor
  · intro h
    obtain ⟨j, hj⟩ := Nat.exists_testBit_of_ne_zero h
    rw [testBit_field, Bool.and_eq_true, decide_eq_true_eq] at hj
    obtain ⟨hlt, hset⟩ := hj
    exact ⟨lo + j, BitVec.lt_of_getLsbD hset, hset, by omega, by omega⟩
  · rintro ⟨b, -, hset, hlo, hhi⟩ hzero
    have hbit := testBit_field v hi lo (b - lo)
    rw [hzero, Nat.add_sub_cancel' hlo, hset, decide_eq_true (by omega), Nat.zero_testBit] at hbit
    cases hbit

/-- Settles O5: each check of the decoder on bits shown as 0 fails when one of these bits is set. -/
theorem illegalExactlyOnReservedOpcodeOrBit : Obligations.IllegalExactlyOnReservedOpcodeOrBit := by
  intro v
  rw [decode_eq_error_iff]
  simp only [field_ne_zero_iff, ← exists_or, ← exists_and_left]
  refine or_congr_right (exists_congr fun b => ?_)
  by_cases hset : v.getLsbD b = true
  · simp only [hset, true_and]
    omega
  · simp [hset]

end Sys2Proof
end

section
/-! PROOFS. The assembler's words and refusals (O6). -/

namespace Sys2Proof.Machine

/-- A command's line is refused when a field does not fit, and else gives the low half of the command's word (R92). -/
theorem assemble_command {i : Instr} {p : Prop} [Decidable p] {x : Nat} (hrefused : ¬ i.wellFormed = true ↔ p)
    (hword : encode i = BitVec.ofNat 64 x) :
    assemble (.command i) = if p then none else some (BitVec.ofNat 32 x) := by
  rw [assemble, AsmLine.expand, hword, BitVec.truncate_eq_setWidth, BitVec.setWidth_ofNat_of_le (by decide)]
  simp only [← hrefused, ite_not]

/-- Settles O6: by `assemble_command` for each line of the syntax table; `DEC len` stands for the line `DEC.FHT len`. -/
theorem assemblerWordsAndRefusals : Obligations.AssemblerWordsAndRefusals := by
  refine ⟨rfl, fun m => ?_, fun len => ?_, fun len => ?_, fun len => ?_, fun stage row col => ?_, fun _ => rfl⟩
  all_goals
    refine assemble_command ?_ rfl
    simp only [Instr.wellFormed, Bool.and_eq_true, decide_eq_true_eq]
    omega

end Sys2Proof.Machine
end

section
/-! PROOFS. WAIT, a host's polling of STATUS (O20). -/

namespace Sys2Proof.Machine

/-- Bit 0 of the image of STATUS is BUSY (R26, R65). -/
theorem imageBit0_bytesOfWord_status (s : State) : imageBit0 (bytesOfWord (s.readReg .status)) = s.inflight.isSome := by
  rw [imageBit0, wordOfBytes_bytesOfWord, State.readReg, State.getLsbD_statusWord, if_pos rfl]

/-- WAIT's turn is a read of STATUS, after which WAIT stays while BUSY reads 1 (R71, R94). -/
theorem step_of_wait {s : State} {h : Nat} {b : BusHost} {rest : List HostOp} {ts : List Turn}
    (hts : s.schedule = .host h :: ts) (hb : s.hosts[h]? = some b) (hprog : b.prog = .wait :: rest) :
    step s = hostRead s.popTurn h b (statusAddr s.cfg) 8
      fun bs => if imageBit0 bs then .wait :: rest else rest := by
  simp [step_of_schedule hts, takeTurn, hostStep, hb, hprog]

/-- Settles O20: the read of STATUS is legal, and its bit 0 is BUSY. -/
theorem waitPollsStatusUntilIdle : Obligations.WaitPollsStatusUntilIdle := by
  intro s h b rest ts hts hb hprog
  have hoff : accessOffset s.popTurn.cfg (statusAddr s.cfg) 8 = .next 0x010 :=
    accessOffset_window (by decide) (by decide)
  have hreg : Reg.ofOffset 0x010 = .status := rfl
  rw [step_of_wait hts hb hprog, hostRead_eq_atOffset, hoff, atOffset, hreg, State.hostReceives,
    imageBit0_bytesOfWord_status, State.popTurn, hts]
  rfl

end Sys2Proof.Machine
end

section
/-! PROOFS. The configuration family: NOP and CFG (O29, O30, O31), and that only a CFG that succeeds changes the
instance (O40). -/

namespace Sys2Proof.Machine

/-- A meaning that takes nothing from the latch answers its state whatever command is in flight (R43). -/
theorem onLatch_const {s : State} (t : State) (h : s.inflight ≠ none) : onLatch s (fun _ => t) = .next t := by
  obtain ⟨l, hl⟩ := Option.ne_none_iff_exists'.1 h
  exact onLatch_some hl

/-- Settles O29: NOP takes nothing from the latch. -/
theorem nopOnlyClearsTheErrorCode : Obligations.NopOnlyClearsTheErrorCode :=
  fun s hbusy => onLatch_const s.succeed hbusy

/-- Settles O30: CFG takes nothing from the latch, and its check of m passes. -/
theorem cfgMakesTheInstanceAndClearsResults : Obligations.CfgMakesTheInstanceAndClearsResults := by
  intro s m hbusy hlow hhigh
  have hlegal : ¬ (m < 1 ∨ m > s.cfg.mMax) := by omega
  exact (onLatch_const _ hbusy).trans (congrArg _ (if_neg hlegal))

/-- Settles O31: CFG takes nothing from the latch, and its check of m fails. -/
theorem cfgOutOfRangeOnlySetsTheErrorCode : Obligations.CfgOutOfRangeOnlySetsTheErrorCode := by
  intro s m hbusy hrange
  have hillegal : m < 1 ∨ m > s.cfg.mMax := by omega
  exact (onLatch_const _ hbusy).trans (congrArg _ (if_pos hillegal))

/-- A completed command keeps the instance, or is a CFG that succeeded (R108). -/
theorem exec_sameConfig_or_successful_cfg {i : Instr} {s t : State} (h : exec i s = .next t) :
    SameConfig s t ∨ ((∃ m, i = .cfg m) ∧ t.err = .none) := by
  obtain ⟨l, -, ⟨e, rfl, -⟩ | ⟨-, rfl⟩ | ⟨m, hi, -, -, rfl⟩ | ⟨len, -, -, -, -, rfl⟩ | ⟨p, len, -, -, -, rfl⟩ |
    ⟨a, b, c, -, -, -, -, -, -, rfl⟩⟩ := exec_eq_next_cases h
  case inr.inr.inl => exact .inr ⟨⟨m, hi⟩, rfl⟩
  all_goals exact .inl ⟨rfl, rfl, rfl, rfl⟩

/-- Settles O40: the hypothesis excludes the CFG that succeeded. -/
theorem onlySuccessfulCfgChangesTheInstance : Obligations.OnlySuccessfulCfgChangesTheInstance := by
  intro i s t h hother
  obtain ⟨-, hvalid, hm, hgmat⟩ | ⟨⟨m, hi⟩, herr⟩ := exec_sameConfig_or_successful_cfg h
  · exact ⟨hvalid, hm, hgmat⟩
  · obtain hnot | hfailed := hother
    · exact absurd hi (hnot m)
    · exact absurd herr hfailed

end Sys2Proof.Machine
end

section
/-! PROOFS. The encoder family: ENC's result and its errors (O32, O33), and the code: linearity (O43), both closed
forms (O44), weights and minimum distance (O45). -/

namespace Sys2Proof.Machine

/-! ### Parity of a count -/

/-- One more element makes an odd count even, and an even one odd, when it is counted. -/
theorem odd_countP_range_succ (p : Nat → Bool) (k : Nat) :
    ((List.range (k + 1)).countP p % 2 == 1) = (((List.range k).countP p % 2 == 1) ^^ p k) := by
  rw [List.range_succ, List.countP_append, List.countP_singleton]
  cases p k
  · simp
  · obtain h | h := Nat.mod_two_eq_zero_or_one ((List.range k).countP p) <;> simp [h, Nat.add_mod]

@[simp] theorem parity_zero_width (x : Nat) : parity 0 x = false := rfl

theorem parity_succ (w x : Nat) : parity (w + 1) x = (parity w x ^^ bit x w) := odd_countP_range_succ (bit x) w

@[simp] theorem parity_zero (w : Nat) : parity w 0 = false := by
  induction w with
  | zero => rfl
  | succ w ih => simp [parity_succ, ih, bit]

theorem parity_xor (w x y : Nat) : parity w (x ^^^ y) = (parity w x ^^ parity w y) := by
  induction w with
  | zero => rfl
  | succ w ih =>
    simp only [parity_succ, ih, bit, Nat.testBit_xor, Bool.xor_assoc, Bool.xor_left_comm]

theorem parity_two_pow (w s : Nat) : parity w (2 ^ s) = decide (s < w) := by
  induction w with
  | zero => simp
  | succ w ih =>
    rw [parity_succ, ih, bit, Nat.testBit_two_pow]
    obtain h | h | h := Nat.lt_trichotomy s w
    · simp [h, h.ne, Nat.lt_succ_of_lt h]
    · simp [h]
    · simp [h.ne', show ¬ s < w by omega, show ¬ s < w + 1 by omega]

/-! ### A codeword, bit by bit -/

@[simp] theorem codeBit_zero (g : List Word) (msg : Word) (j : Nat) : codeBit g 0 msg j = false := rfl

theorem codeBit_succ (g : List Word) (k : Nat) (msg : Word) (j : Nat) :
    codeBit g (k + 1) msg j = (codeBit g k msg j ^^ (msg.getLsbD k && gmatBit g k j)) := by
  simp [codeBit, List.range_succ]

/-- The XOR of R120 is 1 when an odd number of its terms are. -/
theorem codeBit_eq_odd_countP (g : List Word) (k : Nat) (msg : Word) (j : Nat) :
    codeBit g k msg j = ((List.range k).countP (fun t => msg.getLsbD t && gmatBit g t j) % 2 == 1) := by
  induction k with
  | zero => rfl
  | succ k ih => rw [codeBit_succ, ih, odd_countP_range_succ]

theorem codeBit_xor (g : List Word) (k : Nat) (u v : Word) (j : Nat) :
    codeBit g k (u ^^^ v) j = (codeBit g k u j ^^ codeBit g k v j) := by
  induction k with
  | zero => rfl
  | succ k ih =>
    simp only [codeBit_succ, ih, BitVec.getLsbD_xor, Bool.and_xor_distrib_right, Bool.xor_assoc, Bool.xor_left_comm]

/-- Bit j of a codeword by the closed form, with `u' = u[m:1]` (R122). -/
def closedBit (m : Nat) (u : Word) (j : Nat) : Bool := u.getLsbD 0 ^^ parity m (j &&& field u m 1)

/-- A 1 in u' changes the codeword's bit with that bit of the column number. -/
theorem closedBit_xor_two_pow {m s : Nat} {u : Word} (hs : s < m) (hset : (field u m 1).testBit s = true) (j : Nat) :
    closedBit m u (j ^^^ 2 ^ s) = !closedBit m u j := by
  rw [closedBit, closedBit, Nat.and_xor_distrib_right, Nat.two_pow_and, hset, parity_xor]
  simp [parity_two_pow, hs]

/-- Row 0 contributes u[0], and row r the product of u[r] and bit r-1 of the column: the parity of `j & u'` (R122). -/
theorem codeBit_gen {m k j : Nat} (u : Word) (hm : m ≤ 6) (hj : j < 2 ^ m) (hk : k ≤ m) :
    codeBit (gen m) (k + 1) u j = (u.getLsbD 0 ^^ parity k (j &&& field u m 1)) := by
  have hj64 : j < 64 := hj.trans_le (Nat.pow_le_pow_right Nat.two_pos hm)
  induction k with
  | zero => simp [codeBit_succ, gmatBit_gen, genBit, hj, hj64]
  | succ k ih =>
    have hrow : gmatBit (gen m) (k + 1) j = bit j k := by
      simp [gmatBit_gen (show k + 1 < m + 1 by omega), genBit, hj, hj64]
    have hbit : bit (j &&& field u m 1) k = (u.getLsbD (k + 1) && bit j k) := by
      rw [bit, Nat.testBit_and, testBit_field, decide_eq_true (by omega), Bool.true_and, Nat.add_comm, Bool.and_comm,
        bit]
    rw [codeBit_succ, ih (by omega), parity_succ, hrow, hbit, Bool.xor_assoc]

/-! ### ENC -/

/-- ENC on the command in flight: the three checks, then CW (R120). -/
theorem exec_enc {s : State} {l : Latch} (hl : s.inflight = some l) (len : Nat) :
    exec (.enc len) s = .next
      (if s.confValid = false then s.raise .notConfigured
      else if len ≠ s.k then s.raise .invalidLength
      else if strayBits l.msg s.k then s.raise .invalidParameter
      else State.succeed { s with cw := encodeWith s.gmat s.n s.k l.msg }) :=
  onLatch_some hl

/-- Settles O33: each clause passes the checks before its own and fails its own. -/
theorem encErrorsInOrder : Obligations.EncErrorsInOrder := by
  intro s l len hl
  refine ⟨fun hv => ?_, fun hv hlen => ?_, fun hv hlen hstray => ?_⟩ <;> rw [exec_enc hl]
  · rw [if_pos hv]
    rfl
  · rw [if_neg (by simp [hv]), if_pos hlen]
    rfl
  · rw [if_neg (by simp [hv]), if_neg (not_not_intro hlen), if_pos hstray]
    rfl

/-- Settles O32: all checks pass, and a bit of CW is the parity of the rows that meet the message there. -/
theorem encWritesTheCodeword : Obligations.EncWritesTheCodeword := by
  intro s l hl hv hstray
  refine ⟨encodeWith s.gmat s.n s.k l.msg, ?_, fun j hj => ?_⟩
  · rw [exec_enc hl, if_neg (by simp [hv]), if_neg (not_not_intro rfl), if_neg (by simp [hstray])]
    rfl
  · rw [encodeWith, getLsbD_packBits, codeBit_eq_odd_countP, decide_eq_true hj, Bool.true_and]
    rfl

/-! ### Linearity and the closed forms -/

theorem getLsbD_encodeFn (m : Nat) (u : Word) {j : Nat} (hj : j < 64) :
    (encodeFn m u).getLsbD j = (decide (j < 2 ^ m) && codeBit (gen m) (m + 1) u j) := by
  rw [encodeFn, encodeWith, getLsbD_packBits, decide_eq_true hj, Bool.true_and]

/-- Settles O43: every bit of a codeword is linear in the message. -/
theorem encodingIsLinear : Obligations.EncodingIsLinear := by
  intro m u v
  refine BitVec.eq_of_getLsbD_eq fun j hj => ?_
  rw [BitVec.getLsbD_xor, getLsbD_encodeFn m _ hj, getLsbD_encodeFn m _ hj, getLsbD_encodeFn m _ hj, codeBit_xor,
    Bool.and_xor_distrib_left]

theorem encodeFn_eq_packBits {m : Nat} (u : Word) (hm : m ≤ 6) : encodeFn m u = packBits (2 ^ m) (closedBit m u) :=
  packBits_congr fun _ hj => codeBit_gen u hm hj le_rfl

/-- The XOR of the rows r <= k of a stored matrix with u[r] = 1, row 0 first (R122). -/
def rowSum (g : List Word) (u : Word) (k : Nat) : Word :=
  (List.range k).foldl (fun c r => if u.getLsbD (r + 1) then c ^^^ g.getD (r + 1) 0 else c)
    (if u.getLsbD 0 then g.getD 0 0 else 0)

theorem getLsbD_rowSum (g : List Word) (u : Word) (k j : Nat) :
    (rowSum g u k).getLsbD j = codeBit g (k + 1) u j := by
  induction k with
  | zero =>
    rw [rowSum, codeBit_succ, gmatBit]
    cases u.getLsbD 0 <;> simp
  | succ k ih =>
    have hsucc : rowSum g u (k + 1) =
        if u.getLsbD (k + 1) then rowSum g u k ^^^ g.getD (k + 1) 0 else rowSum g u k := by
      simp [rowSum, List.range_succ]
    rw [hsucc, codeBit_succ, ← ih, gmatBit]
    cases u.getLsbD (k + 1) <;> simp

/-- Rows of Gen(m) have no 1 beyond column n-1, so neither has their XOR. -/
theorem codeBit_gen_above {m k j : Nat} (u : Word) (hj : 2 ^ m ≤ j) (hk : k ≤ m + 1) :
    codeBit (gen m) k u j = false := by
  induction k with
  | zero => rfl
  | succ k ih => simp [codeBit_succ, ih (by omega), gmatBit_gen (show k < m + 1 by omega), Nat.not_lt.2 hj]

theorem encodeFn_eq_rowSum (m : Nat) (u : Word) : encodeFn m u = rowSum (gen m) u m := by
  refine BitVec.eq_of_getLsbD_eq fun j hj => ?_
  rw [getLsbD_encodeFn m u hj, getLsbD_rowSum]
  by_cases hn : j < 2 ^ m
  · simp [hn]
  · rw [codeBit_gen_above u (Nat.le_of_not_lt hn) le_rfl, Bool.and_false]

/-- Settles O44: `encodeFn_eq_packBits` and `encodeFn_eq_rowSum`. -/
theorem codewordClosedForms : Obligations.CodewordClosedForms := by
  intro m u hm
  refine ⟨fun j hj => ?_, encodeFn_eq_rowSum m u⟩
  have hj64 : j < 64 := hj.trans_le (Nat.pow_le_pow_right Nat.two_pos hm)
  rw [encodeFn_eq_packBits u hm, getLsbD_packBits, decide_eq_true hj64, decide_eq_true hj]
  rfl

/-! ### Weights and distance -/

/-- The weight of a packed vector counts its elements. -/
theorem popcount_packBits {n : Nat} (hn : n ≤ 64) (f : Nat → Bool) :
    popcount 64 (packBits n f).toNat = (List.range n).countP f := by
  have hbit : ∀ j, bit (packBits n f).toNat j = (decide (j < 64) && (decide (j < n) && f j)) := fun j =>
    (BitVec.testBit_toNat _).trans (getLsbD_packBits n f j)
  have hlow : (List.range n).countP (bit (packBits n f).toNat) = (List.range n).countP f :=
    List.countP_congr fun j hj => by
      have hjn : j < n := List.mem_range.1 hj
      simp [hbit, hjn, hjn.trans_le hn]
  have hhigh : ((List.range (64 - n)).map (n + ·)).countP (bit (packBits n f).toNat) = 0 := by
    simp [List.countP_eq_zero, hbit]
  have hsplit : List.range 64 = List.range n ++ (List.range (64 - n)).map (n + ·) := by
    rw [← List.range_add, Nat.add_sub_cancel' hn]
  rw [popcount, hsplit, List.countP_append, hhigh, hlow, Nat.add_zero]

/-- A function that changes with one bit of its index is 1 on half of the indices. -/
theorem two_mul_countP_range_of_flip {m s : Nat} (hs : s < m) {f : Nat → Bool}
    (hflip : ∀ j, f (j ^^^ 2 ^ s) = !f j) : 2 * (List.range (2 ^ m)).countP f = 2 ^ m := by
  have hperm : ((List.range (2 ^ m)).map (· ^^^ 2 ^ s)).Perm (List.range (2 ^ m)) := by
    have hnodup := List.nodup_range (n := 2 ^ m)
    refine (List.perm_ext_iff_of_nodup (hnodup.map Nat.xor_left_injective) hnodup).2 fun j => ?_
    simp only [List.mem_map, List.mem_range]
    constructor
    · rintro ⟨i, hi, rfl⟩
      exact xor_two_pow_lt hi hs
    · exact fun hj => ⟨j ^^^ 2 ^ s, xor_two_pow_lt hj hs, Nat.xor_xor_cancel_right ..⟩
  have hhalf : (List.range (2 ^ m)).countP f = (List.range (2 ^ m)).countP (fun j => !f j) := by
    rw [← hperm.countP_eq, List.countP_map]
    exact List.countP_congr fun j _ => by rw [Function.comp_apply, hflip]
  have htotal := List.length_eq_countP_add_countP f (l := List.range (2 ^ m))
  simp only [List.length_range, Bool.not_eq_true, Bool.decide_eq_false] at htotal
  omega

/-- A message has `u' = 0` exactly when it is 0 or 1. -/
theorem field_eq_zero_iff_of_message {m : Nat} {u : Word} (hu : u.toNat < 2 ^ (m + 1)) :
    field u m 1 = 0 ↔ u = 0 ∨ u = 1 := by
  have hzero : u = 0 ↔ u.toNat = 0 := BitVec.toNat_inj.symm
  have hone : u = 1 ↔ u.toNat = 1 := BitVec.toNat_inj.symm
  rw [field_eq_div_mod, Nat.add_sub_cancel, Nat.mod_eq_of_lt (by omega), hzero, hone]
  omega

/-- The weight of a codeword, by its message (R124). -/
theorem popcount_encodeFn {m : Nat} {u : Word} (hm : m ≤ 6) (hu : u.toNat < 2 ^ (m + 1)) :
    popcount 64 (encodeFn m u).toNat = if u = 0 then 0 else if u = 1 then 2 ^ m else 2 ^ (m - 1) := by
  rw [encodeFn_eq_packBits u hm, popcount_packBits (Nat.pow_le_pow_right Nat.two_pos hm)]
  by_cases hzero : field u m 1 = 0
  · have hconst : closedBit m u = fun _ => u.getLsbD 0 := by
      funext j
      rw [closedBit, hzero, Nat.and_zero, parity_zero, Bool.xor_false]
    rw [hconst]
    obtain rfl | rfl := (field_eq_zero_iff_of_message hu).1 hzero <;> simp
  · have hne : u ≠ 0 ∧ u ≠ 1 := not_or.1 (mt (field_eq_zero_iff_of_message hu).2 hzero)
    obtain ⟨s, hset⟩ := Nat.exists_testBit_of_ne_zero hzero
    have hs : s < m := by
      rw [testBit_field, Bool.and_eq_true, decide_eq_true_eq] at hset
      omega
    have hhalf := two_mul_countP_range_of_flip hs (closedBit_xor_two_pow hs hset)
    have hpow := Nat.two_pow_pred_mul_two (Nat.zero_lt_of_lt hs)
    rw [if_neg hne.1, if_neg hne.2]
    omega

/-- Settles O45: the weights, and by linearity the distance of two codewords is the weight of a third one, not 0. -/
theorem codewordWeightsAndDistance : Obligations.CodewordWeightsAndDistance := by
  intro m u hpos hm hu
  have hwidth : m + 1 ≤ 64 := by omega
  rw [strayBits_eq_false_iff u hwidth] at hu
  refine ⟨strayBits_packBits _ _, popcount_encodeFn hm hu, fun v hv hne => ?_⟩
  rw [strayBits_eq_false_iff v hwidth] at hv
  have hxor : (u ^^^ v).toNat < 2 ^ (m + 1) := by
    rw [BitVec.toNat_xor]
    exact Nat.xor_lt_two_pow hu hv
  have hzero : u ^^^ v ≠ 0 := fun h => hne (BitVec.xor_eq_zero_iff.1 h).symm
  have hpow : 2 ^ (m - 1) ≤ 2 ^ m := Nat.pow_le_pow_right Nat.two_pos (Nat.sub_le m 1)
  rw [← encodingIsLinear, popcount_encodeFn hm hxor, if_neg hzero]
  split <;> omega

end Sys2Proof.Machine
end

section
/-! PROOFS. The transform family: the stage matrix in closed form (O46), KENT (O34, O35), the transform as the product
by Had(m) and as correlations (O47, O48), the stages against the Kronecker stages (O49), and the range and evenness of
the entries (O50). Signs are powers of -1, so that a sign's exponent counts bits. -/

namespace Sys2Proof.Machine

/-! ### Stage matrices -/

/-- The test of R147, `(a ^ b) & ~2^s = 0`: no bit but s tells a from b. -/
theorem xor_or_two_pow_eq_iff (s a b : Nat) :
    (a ^^^ b) ||| 2 ^ s = 2 ^ s ↔ ∀ p, p ≠ s → a.testBit p = b.testBit p := by
  constructor
  · intro h p hp
    have hbit := congrArg (Nat.testBit · p) h
    simpa [Nat.testBit_two_pow_of_ne hp.symm] using hbit
  · refine fun h => Nat.eq_of_testBit_eq fun p => ?_
    by_cases hp : p = s
    · simp [hp]
    · simp [h p hp]

/-- The indices of the two identities of R146 agree when no bit but s tells a from b. -/
theorem div_eq_and_mod_eq_iff (s a b : Nat) :
    (a / 2 ^ s / 2 = b / 2 ^ s / 2 ∧ a % 2 ^ s = b % 2 ^ s) ↔ ∀ p, p ≠ s → a.testBit p = b.testBit p := by
  have hhigh (x : Nat) : x / 2 ^ s / 2 = x / 2 ^ (s + 1) := by rw [Nat.div_div_eq_div_mul, Nat.pow_succ]
  rw [hhigh, hhigh]
  constructor
  · rintro ⟨hdiv, hmod⟩ p hp
    obtain hlt | hgt := Nat.lt_or_gt_of_ne hp
    · have hbit := congrArg (Nat.testBit · p) hmod
      simpa [Nat.testBit_mod_two_pow, hlt] using hbit
    · have hbit := congrArg (Nat.testBit · (p - (s + 1))) hdiv
      simpa [Nat.testBit_div_two_pow, Nat.sub_add_cancel hgt] using hbit
  · intro h
    constructor <;> refine Nat.eq_of_testBit_eq fun p => ?_
    · rw [Nat.testBit_div_two_pow, Nat.testBit_div_two_pow, h _ (by omega)]
    · by_cases hp : p = s
      · simp [Nat.testBit_mod_two_pow, hp]
      · rw [Nat.testBit_mod_two_pow, Nat.testBit_mod_two_pow, h p hp]

/-- The kernel's entry at bit s of a row and a column is -1 when both bits are 1. -/
theorem hadamardKernel_bits (s a b : Nat) :
    hadamardKernel (a / 2 ^ s % 2) (b / 2 ^ s % 2) = if bit a s ∧ bit b s then -1 else 1 := by
  simp [hadamardKernel, bit, Nat.testBit_eq_decide_div_mod_eq]

/-- The Kronecker products of R146 have the closed form of R147, at all indices. -/
theorem kstageMatrix_eq_kstage (i a b : Nat) : kstageMatrix i a b = kstage i a b := by
  have hagree := (div_eq_and_mod_eq_iff (i - 1) a b).trans (xor_or_two_pow_eq_iff (i - 1) a b).symm
  rw [kstageMatrix, kronecker, kronecker, hadamardKernel_bits, identity, identity, kstage]
  by_cases hout : (a ^^^ b) ||| 2 ^ (i - 1) = 2 ^ (i - 1)
  · obtain ⟨hdiv, hmod⟩ := hagree.2 hout
    simp [hout, hdiv, hmod]
  · rw [if_pos hout]
    obtain hdiv | hmod := not_and_or.1 (mt hagree.1 hout)
    · simp [hdiv]
    · simp [hmod]

theorem kstage_of_agree {i a b : Nat} (h : ∀ p, p ≠ i - 1 → a.testBit p = b.testBit p) :
    kstage i a b = if bit a (i - 1) ∧ bit b (i - 1) then -1 else 1 :=
  if_neg (not_not_intro ((xor_or_two_pow_eq_iff _ a b).2 h))

/-- Row a of a stage matrix is not 0 at its own column and at its partner's (R147). -/
theorem kstage_ne_zero_iff (i a b : Nat) : kstage i a b ≠ 0 ↔ b = a ∨ b = a ^^^ 2 ^ (i - 1) := by
  have hcols : (a ^^^ b) ||| 2 ^ (i - 1) = 2 ^ (i - 1) ↔ b = a ∨ b = a ^^^ 2 ^ (i - 1) := by
    rw [or_two_pow_eq_iff, xor_eq_iff_right_eq, xor_eq_iff_right_eq, Nat.xor_zero]
  rw [← hcols, kstage]
  by_cases hout : (a ^^^ b) ||| 2 ^ (i - 1) = 2 ^ (i - 1)
  · simp only [hout, ne_eq, not_true_eq_false, if_false, iff_true]
    split <;> decide
  · simp [hout]

/-- Settles O46: the closed form's three clauses, carried over to the Kronecker products. -/
theorem stageMatrixClosedForm : Obligations.StageMatrixClosedForm := by
  intro m i a b _ _ _ _
  rw [kstageMatrix_eq_kstage]
  refine ⟨fun ⟨p, hp, hne⟩ => ?_, kstage_of_agree, rfl, kstage_ne_zero_iff i a b⟩
  exact if_pos fun hout => hne ((xor_or_two_pow_eq_iff _ a b).1 hout p hp)

/-! ### KENT -/

/-- KENT on a command in flight: the checks, then KRES (R151). -/
theorem exec_kent {s : State} (h : s.inflight ≠ none) (stage row col : Nat) :
    exec (.kent stage row col) s = .next
      (if s.confValid = false then s.raise .notConfigured
      else if stage < 1 ∨ stage > s.confM ∨ row ≥ s.n ∨ col ≥ s.n then s.raise .invalidParameter
      else State.succeed { s with kres := sext64 (kstage stage row col) }) :=
  onLatch_const _ h

/-- Settles O34: all checks pass, and the closed form is the entry of the Kronecker products. -/
theorem kentWritesTheStageEntry : Obligations.KentWritesTheStageEntry := by
  intro s stage row col hbusy hv hlow hhigh hrow hcol
  rw [exec_kent hbusy, if_neg (by simp [hv]), if_neg (by omega), ← kstageMatrix_eq_kstage]
  rfl

/-- Settles O35: the check of CONF_VALID fails, or it passes and the check of the operands fails. -/
theorem kentErrorsInOrder : Obligations.KentErrorsInOrder := by
  intro s stage row col hbusy
  refine ⟨fun hv => ?_, fun hv hrange => ?_⟩ <;> rw [exec_kent hbusy]
  · rw [if_pos hv]
    rfl
  · rw [if_neg (by simp [hv]), if_pos (by omega)]
    rfl

/-! ### The Hadamard matrix -/

@[simp] theorem popcount_zero_width (x : Nat) : popcount 0 x = 0 := rfl

theorem popcount_succ (w x : Nat) : popcount (w + 1) x = popcount w x + (bit x w).toNat := by
  rw [popcount, List.range_succ, List.countP_append, List.countP_singleton, Bool.toNat, Bool.cond_eq_ite]
  rfl

theorem popcount_congr {w x y : Nat} (h : ∀ p, p < w → bit x p = bit y p) : popcount w x = popcount w y :=
  List.countP_congr fun p hp => by rw [h p (List.mem_range.1 hp)]

/-- One more bit of the index contributes its own sign. -/
theorem neg_one_pow_popcount_succ (w x : Nat) :
    (-1 : Int) ^ popcount (w + 1) x = (if bit x w then -1 else 1) * (-1) ^ popcount w x := by
  rw [popcount_succ, pow_add, mul_comm]
  cases bit x w <;> rfl

/-- The closed form of Had(m): each factor of R143 contributes the sign of one bit of `i & j` (R144). -/
theorem hadamard_eq {m i j : Nat} (hi : i < 2 ^ m) (hj : j < 2 ^ m) :
    hadamard m i j = (-1) ^ popcount m (i &&& j) := by
  induction m generalizing i j with
  | zero =>
    obtain rfl : i = 0 := by simpa using hi
    obtain rfl : j = 0 := by simpa using hj
    rfl
  | succ m ih =>
    have htop {x : Nat} (hx : x < 2 ^ (m + 1)) : x / 2 ^ m = x / 2 ^ m % 2 :=
      (Nat.mod_eq_of_lt (Nat.div_lt_of_lt_mul hx)).symm
    have hmod (x : Nat) : x % 2 ^ m < 2 ^ m := Nat.mod_lt _ (Nat.two_pow_pos m)
    have hlow : popcount m (i % 2 ^ m &&& j % 2 ^ m) = popcount m (i &&& j) :=
      popcount_congr fun p hp => by simp [bit, Nat.testBit_mod_two_pow, hp]
    have hbit : bit (i &&& j) m = (bit i m && bit j m) := Nat.testBit_and i j m
    rw [hadamard, kronecker, htop hi, htop hj, hadamardKernel_bits, ih (hmod i) (hmod j), hlow,
      neg_one_pow_popcount_succ, hbit]
    simp only [Bool.and_eq_true]

/-! ### The in-place transform as a sum -/

/-- Entry i after a stage, with the sign as a factor. -/
theorem pairEntry_eq (s : Nat) (a : List Int) (i : Nat) :
    pairEntry s a i = (if bit i s then -1 else 1) * entry a i + entry a (i ^^^ 2 ^ s) := by
  rw [pairEntry]
  split <;> ring

@[simp] theorem fhtStages_zero (m : Nat) (a : List Int) : fhtStages m 0 a = a := rfl

/-- What the old entry at `i ^ t` contributes to entry i over k stages. -/
def stageTerm (k : Nat) (a : List Int) (i t : Nat) : Int :=
  (-1) ^ popcount k (i &&& (i ^^^ t)) * entry a (i ^^^ t)

/-- Where t does not reach bit k, stage k gives the term the sign of bit k of i. -/
theorem stageTerm_succ_low {k t : Nat} (ht : t < 2 ^ k) (a : List Int) (i : Nat) :
    stageTerm (k + 1) a i t = (if bit i k then -1 else 1) * stageTerm k a i t := by
  have hbit : bit (i &&& (i ^^^ t)) k = bit i k := by simp [bit, Nat.testBit_lt_two_pow ht]
  rw [stageTerm, neg_one_pow_popcount_succ, hbit, stageTerm, mul_assoc]

/-- Where t has bit k, stage k takes the term from the partner of i, as it is. -/
theorem stageTerm_succ_high {k t : Nat} (ht : t < 2 ^ k) (a : List Int) (i : Nat) :
    stageTerm (k + 1) a i (2 ^ k + t) = stageTerm k a (i ^^^ 2 ^ k) t := by
  have hclear : t.testBit k = false := Nat.testBit_lt_two_pow ht
  have hindex : i ^^^ (2 ^ k + t) = i ^^^ 2 ^ k ^^^ t := by
    rw [Nat.add_comm, ← xor_two_pow_of_bit_clear hclear, ← Nat.xor_assoc, Nat.xor_right_comm]
  have hbit : bit (i &&& (i ^^^ 2 ^ k ^^^ t)) k = false := by simp [bit, hclear]
  have hlow : popcount k (i &&& (i ^^^ 2 ^ k ^^^ t)) = popcount k ((i ^^^ 2 ^ k) &&& (i ^^^ 2 ^ k ^^^ t)) :=
    popcount_congr fun p hp => by simp [bit, Nat.testBit_two_pow_of_ne hp.ne']
  rw [stageTerm, hindex, neg_one_pow_popcount_succ, hbit, hlow, stageTerm]
  simp

/-- After k stages entry i is a signed sum of the old entries whose index differs from i in the low k bits only. -/
theorem entry_fhtStages {m k i : Nat} {a : List Int} (hlen : a.length = 2 ^ m) (hk : k ≤ m) (hi : i < 2 ^ m) :
    entry (fhtStages m k a) i = ∑ t ∈ Finset.range (2 ^ k), stageTerm k a i t := by
  induction k generalizing i with
  | zero => simp [stageTerm]
  | succ k ih =>
    have hlow : ∑ t ∈ Finset.range (2 ^ k), stageTerm (k + 1) a i t =
        (if bit i k then -1 else 1) * ∑ t ∈ Finset.range (2 ^ k), stageTerm k a i t := by
      rw [Finset.mul_sum]
      exact Finset.sum_congr rfl fun t ht => stageTerm_succ_low (Finset.mem_range.1 ht) a i
    have hhigh : ∑ t ∈ Finset.range (2 ^ k), stageTerm (k + 1) a i (2 ^ k + t) =
        ∑ t ∈ Finset.range (2 ^ k), stageTerm k a (i ^^^ 2 ^ k) t :=
      Finset.sum_congr rfl fun t ht => stageTerm_succ_high (Finset.mem_range.1 ht) a i
    rw [fhtStages_succ, entry_fhtStage (by simp [hlen]) hk hi, pairEntry_eq, ih (by omega) hi,
      ih (by omega) (xor_two_pow_lt hi hk), Nat.pow_succ, Nat.mul_two, Finset.sum_range_add, hlow, hhigh]

/-- The transform as correlations (R144): over all m bits, `i ^ t` runs through every index. -/
theorem entry_fht {m i : Nat} {a : List Int} (hlen : a.length = 2 ^ m) (hi : i < 2 ^ m) :
    entry (fht m a) i = ∑ j ∈ Finset.range (2 ^ m), (-1) ^ popcount m (i &&& j) * entry a j := by
  have hmem : ∀ t ∈ Finset.range (2 ^ m), i ^^^ t ∈ Finset.range (2 ^ m) := fun t ht =>
    Finset.mem_range.2 (Nat.xor_lt_two_pow hi (Finset.mem_range.1 ht))
  have hback : ∀ t ∈ Finset.range (2 ^ m), i ^^^ (i ^^^ t) = t := fun t _ => Nat.xor_xor_cancel_left i t
  rw [fht_eq_fhtStages, entry_fhtStages hlen le_rfl hi]
  exact Finset.sum_nbij' (i ^^^ ·) (i ^^^ ·) hmem hmem hback hback fun _ _ => rfl

/-- The sums of the statements are lists' sums, those of the lemmas are Mathlib's over a finite set. -/
theorem sum_map_range (n : Nat) (f : Nat → Int) : ((List.range n).map f).sum = ∑ j ∈ Finset.range n, f j := rfl

/-- Settles O47: `hadamard_eq` and `entry_fht`. -/
theorem hadamardClosedForm : Obligations.HadamardClosedForm :=
  ⟨fun _ _ _ hi hj => hadamard_eq hi hj, fun _ _ _ hlen hi => (entry_fht hlen hi).trans (sum_map_range _ _).symm⟩

/-- Entry i of a matrix-vector product (spec/00_scope.md R16). -/
theorem entry_matVec {n i : Nat} (hi : i < n) (M : IntMatrix) (w : List Int) :
    entry (matVec n M w) i = ∑ j ∈ Finset.range n, M i j * entry w j := by
  rw [← sum_map_range]
  simp [entry, matVec, hi]

/-- Settles O48: entry by entry, the terms of the sum are those of the product, by the closed form of Had(m). -/
theorem fhtIsTheHadamardProduct : Obligations.FhtIsTheHadamardProduct := by
  intro m a hlen
  refine list_ext_entry (by simp [matVec, hlen]) fun i hi => ?_
  rw [length_fht, hlen] at hi
  rw [entry_fht hlen hi, entry_matVec hi]
  exact Finset.sum_congr rfl fun j hj => by rw [hadamard_eq hi (Finset.mem_range.1 hj)]

/-! ### The Kronecker stages -/

/-- Two stage products act on different bits of the index, so they commute (R149). -/
theorem kronStage_comm {m s r : Nat} (hs : s < m) (hr : r < m) (w : List Int) :
    kronStage (2 ^ m) (s + 1) (kronStage (2 ^ m) (r + 1) w) =
      kronStage (2 ^ m) (r + 1) (kronStage (2 ^ m) (s + 1) w) := by
  by_cases hne : s = r
  · rw [hne]
  have hkeep {i p q : Nat} (hpq : p ≠ q) : bit (i ^^^ 2 ^ p) q = bit i q := by
    simp [bit, Nat.testBit_two_pow_of_ne hpq]
  refine list_ext_entry (by simp) fun i hi => ?_
  rw [length_kronStage] at hi
  simp only [entry_kronStage_succ hs, entry_kronStage_succ hr, pairEntry_eq, hi, xor_two_pow_lt hi hs,
    xor_two_pow_lt hi hr, hkeep hne, hkeep (Ne.symm hne), Nat.xor_right_comm i (2 ^ r)]
  ring

/-- Settles O49: `kron_eq_fht`, `kronStage_eq_fhtStage` and `kronStage_comm`, with stages counted from 1. -/
theorem kroneckerTransformEqualsFht : Obligations.KroneckerTransformEqualsFht := by
  intro m w hlen
  refine ⟨kron_eq_fht hlen, fun i hi him => ?_, fun i j hi him hj hjm => ?_⟩
  · obtain ⟨s, rfl⟩ := Nat.exists_eq_add_of_le' hi
    exact kronStage_eq_fhtStage him hlen
  · obtain ⟨s, rfl⟩ := Nat.exists_eq_add_of_le' hi
    obtain ⟨r, rfl⟩ := Nat.exists_eq_add_of_le' hj
    exact kronStage_comm him hjm w

/-! ### Range and evenness -/

/-- The sum and the difference of two entries of one parity are even. -/
theorem pairEntry_emod_two {s i : Nat} {a : List Int} (h : entry a i % 2 = entry a (i ^^^ 2 ^ s) % 2) :
    pairEntry s a i % 2 = 0 := by
  unfold pairEntry
  split <;> omega

theorem entry_bipolar {n i : Nat} (hi : i < n) (rcv : Word) :
    entry (bipolar n rcv) i = 1 - 2 * ((rcv.getLsbD i).toNat : Int) := by
  simp [entry, bipolar, hi]

/-- All entries have one parity at every stage: odd before the first and even from then on (R142). -/
theorem entry_fhtStages_bipolar_emod_two {m k i : Nat} (hk : k ≤ m) (hi : i < 2 ^ m) (rcv : Word) :
    entry (fhtStages m k (bipolar (2 ^ m) rcv)) i % 2 = if k = 0 then 1 else 0 := by
  induction k generalizing i with
  | zero =>
    rw [fhtStages_zero, entry_bipolar hi, if_pos rfl]
    omega
  | succ k ih =>
    have hsame := (ih (by omega) hi).trans (ih (by omega) (xor_two_pow_lt hi hk)).symm
    rw [fhtStages_succ, entry_fhtStage (by simp) hk hi, pairEntry_emod_two hsame, if_neg (Nat.succ_ne_zero k)]

/-- Settles O50: `natAbs_entry_fhtStages_le` from magnitude 1, and `entry_fhtStages_bipolar_emod_two`. -/
theorem transformNeverOverflows : Obligations.TransformNeverOverflows := by
  intro m s rcv i hs hi
  refine ⟨?_, fun hpos => ?_⟩
  · exact (natAbs_entry_fhtStages_le (length_bipolar _ rcv) (natAbs_entry_bipolar_le _ rcv) hs i).trans_eq (mul_one _)
  · exact (entry_fhtStages_bipolar_emod_two hs hi rcv).trans (if_neg (by omega))

end Sys2Proof.Machine
end

section
/-! PROOFS. The decoder family: the two paths agree (O52), the errors of a decode in their order (O38), its peak (O51),
and its results (O36, O37). -/

namespace Sys2Proof.Machine

/-! ### DEC.FHT and DEC.KRON -/

/-- The paths differ in the transform only, and the transforms agree (R178). -/
theorem decodeWith_kron (len : Nat) (s : State) : decodeWith .kron len s = decodeWith .fht len s := by
  have hpath (l : Latch) : transform .kron s.confM (bipolar s.n l.rcv) = transform .fht s.confM (bipolar s.n l.rcv) :=
    transform_eq_fht .kron (length_bipolar _ _)
  funext l
  rw [decodeWith, hpath l, decodeWith]

/-- Settles O52: `decodeWith_kron`, on whatever is in the latch. -/
theorem theTwoDecodePathsAgree : Obligations.TheTwoDecodePathsAgree :=
  fun s len => congrArg (onLatch s) (decodeWith_kron len s).symm

theorem exec_decFht {s : State} {l : Latch} (hl : s.inflight = some l) (len : Nat) :
    exec (.decFht len) s = .next (decodeWith .fht len s l) :=
  onLatch_some hl

/-- Settles O38: both commands are the decode of R170; each clause passes the checks before its own and fails its
own. -/
theorem decErrorsInOrder : Obligations.DecErrorsInOrder := by
  intro s l len i hl hi
  have hexec : exec i s = .next (decodeWith .fht len s l) := by
    obtain rfl | rfl := hi
    · exact exec_decFht hl len
    · exact (theTwoDecodePathsAgree s len).symm.trans (exec_decFht hl len)
  refine ⟨fun hv => ?_, fun hv hlen => ?_, fun hv hlen hn hstray => ?_⟩ <;> rw [hexec, decodeWith]
  · rw [if_pos hv]
    rfl
  · rw [if_neg (by simp [hv]), if_pos hlen]
    rfl
  · rw [if_neg (by simp [hv]), if_neg (not_not_intro hlen), if_pos ⟨hn, hstray⟩]
    rfl

/-- The n correlations of a received word, as both paths compute them (R173). -/
def correlationList (m : Nat) (rcv : Word) : List Int := fht m (bipolar (2 ^ m) rcv)

/-- A decode that passes the checks writes the results of the correlations (R170). -/
theorem exec_decFht_of_valid {s : State} {l : Latch} (hl : s.inflight = some l) (hv : s.confValid = true)
    (hfits : strayBits l.rcv s.n = false) :
    exec (.decFht s.n) s = .next (s.writeDecode (correlationList s.confM l.rcv)).succeed := by
  rw [exec_decFht hl, decodeWith, if_neg (by simp [hv]), if_neg (not_not_intro rfl), if_neg (by simp [hfits])]
  rfl

/-- The transform's entry i is the correlation with the i-th linear function (R144). -/
theorem entry_correlationList {m i : Nat} (hi : i < 2 ^ m) (rcv : Word) :
    entry (correlationList m rcv) i = correlation m rcv i := by
  rw [correlationList, entry_fht (length_bipolar _ _) hi, correlation, sum_map_range]
  refine Finset.sum_congr rfl fun j hj => ?_
  rw [entry_bipolar (Finset.mem_range.1 hj)]
  cases rcv.getLsbD j <;> rfl

/-! ### The results of a decode -/

/-- Settles O51: `peak_lt`, `natAbs_entry_le_peak` and `natAbs_entry_lt_peak`. -/
theorem peakIsTheFirstOfLargestMagnitude : Obligations.PeakIsTheFirstOfLargestMagnitude :=
  fun n w hn => ⟨peak_lt hn w, fun _ => natAbs_entry_le_peak n w, fun _ => natAbs_entry_lt_peak n w⟩

/-- DEC is twice the peak's index, plus 1 when the peak is negative (R175). -/
theorem recover_eq_ofNat {m p : Nat} (w : List Int) (hp : p < 2 ^ m) :
    recover m w p = BitVec.ofNat 64 (2 * p + if entry w p < 0 then 1 else 0) := by
  have hpack : packNat (m + 1) (fun t => if t = 0 then decide (entry w p < 0) else bit p (t - 1)) =
      2 * p + if entry w p < 0 then 1 else 0 := by
    refine Nat.eq_of_testBit_eq fun t => ?_
    rw [testBit_packNat]
    cases t with
    | zero => by_cases hsign : entry w p < 0 <;> simp [hsign, Nat.add_mod]
    | succ t =>
      have hhalf : (2 * p + if entry w p < 0 then 1 else 0) / 2 = p := by split <;> omega
      have hhigh : m ≤ t → p.testBit t = false := fun h =>
        Nat.testBit_lt_two_pow (hp.trans_le (Nat.pow_le_pow_right Nat.two_pos h))
      rw [Nat.testBit_succ, hhalf]
      by_cases ht : t < m
      · simp [ht, bit]
      · simp [ht, hhigh (Nat.le_of_not_lt ht)]
  rw [recover, packBits, hpack]

/-- Settles O36: the peak of the correlations, by `recover_eq_ofNat` and the three facts about a peak. -/
theorem decFhtWritesTheMaximumLikelihoodDecode : Obligations.DecFhtWritesTheMaximumLikelihoodDecode := by
  intro s l hl hv hfits
  have hp : peak s.n (correlationList s.confM l.rcv) < s.n := peak_lt s.n_pos _
  have hentry {i : Nat} (hi : i < s.n) : entry (correlationList s.confM l.rcv) i = correlation s.confM l.rcv i :=
    entry_correlationList hi l.rcv
  refine ⟨corrOf s.n (correlationList s.confM l.rcv), peak s.n (correlationList s.confM l.rcv), ?_, fun i hi => ?_, hp,
    fun i hi => ?_, fun i hi => ?_⟩
  · rw [exec_decFht_of_valid hl hv hfits, ← hentry hp, ← recover_eq_ofNat _ hp]
    rfl
  · rw [corrOf_getElem]
    split
    · next hin => rw [hentry hin]
    · rfl
  · rw [← hentry hi, ← hentry hp]
    exact natAbs_entry_le_peak _ _ hi
  · rw [← hentry (hi.trans hp), ← hentry hp]
    exact natAbs_entry_lt_peak _ _ hi

/-- Settles O37: DEC.KRON does what DEC.FHT does. -/
theorem decKronWritesTheMaximumLikelihoodDecode : Obligations.DecKronWritesTheMaximumLikelihoodDecode := by
  intro s l hl hv hfits
  rw [← theTwoDecodePathsAgree]
  exact decFhtWritesTheMaximumLikelihoodDecode s l hl hv hfits

end Sys2Proof.Machine
end

section
/-! PROOFS. What the correlations say of a received word: by Parseval the peak is never 0 (O55); a codeword with few
flips is decoded to its message (O54), so a noiseless round trip is exact (O53); and the inverse convention decodes the
same (O56). -/

namespace Sys2Proof.Machine

theorem correlations_correlationList (m : Nat) (rcv : Word) : Correlations (2 ^ m) (correlationList m rcv) :=
  correlations_transform .fht m rcv

/-! ### Parseval -/

/-- A stage doubles the sum of squares: `(x + y)^2 + (x - y)^2 = 2 x^2 + 2 y^2` for every pair. -/
theorem sum_sq_pairEntry {m s : Nat} (hs : s < m) (a : List Int) :
    ∑ i ∈ Finset.range (2 ^ m), pairEntry s a i ^ 2 = 2 * ∑ i ∈ Finset.range (2 ^ m), entry a i ^ 2 := by
  have hmem : ∀ i ∈ Finset.range (2 ^ m), i ^^^ 2 ^ s ∈ Finset.range (2 ^ m) := fun i hi =>
    Finset.mem_range.2 (xor_two_pow_lt (Finset.mem_range.1 hi) hs)
  have hback : ∀ i ∈ Finset.range (2 ^ m), i ^^^ 2 ^ s ^^^ 2 ^ s = i := fun i _ => Nat.xor_xor_cancel_right ..
  have hswap (f : Nat → Int) : ∑ i ∈ Finset.range (2 ^ m), f (i ^^^ 2 ^ s) = ∑ i ∈ Finset.range (2 ^ m), f i :=
    Finset.sum_nbij' (· ^^^ 2 ^ s) (· ^^^ 2 ^ s) hmem hmem hback hback fun _ _ => rfl
  have hpair (i : Nat) : pairEntry s a i ^ 2 + pairEntry s a (i ^^^ 2 ^ s) ^ 2 =
      2 * entry a i ^ 2 + 2 * entry a (i ^^^ 2 ^ s) ^ 2 := by
    rw [pairEntry, pairEntry, bit_xor_two_pow, Nat.xor_xor_cancel_right]
    cases bit i s <;> simp <;> ring
  have hsum := Finset.sum_congr (rfl : Finset.range (2 ^ m) = _) fun i _ => hpair i
  rw [Finset.sum_add_distrib, Finset.sum_add_distrib, hswap (pairEntry s a · ^ 2), ← Finset.mul_sum, ← Finset.mul_sum,
    hswap (entry a · ^ 2)] at hsum
  linarith

/-- Parseval, stage by stage. -/
theorem sum_sq_fhtStages {m k : Nat} {a : List Int} (hlen : a.length = 2 ^ m) (hk : k ≤ m) :
    ∑ i ∈ Finset.range (2 ^ m), entry (fhtStages m k a) i ^ 2 =
      2 ^ k * ∑ i ∈ Finset.range (2 ^ m), entry a i ^ 2 := by
  induction k with
  | zero => simp
  | succ k ih =>
    have hstage : ∀ i ∈ Finset.range (2 ^ m),
        entry (fhtStages m (k + 1) a) i ^ 2 = pairEntry k (fhtStages m k a) i ^ 2 := fun i hi => by
      rw [fhtStages_succ, entry_fhtStage (by simp [hlen]) hk (Finset.mem_range.1 hi)]
    rw [Finset.sum_congr rfl hstage, sum_sq_pairEntry hk, ih (by omega)]
    ring

/-- The squares of the correlations sum to n^2 (R181). -/
theorem sum_sq_correlationList (m : Nat) (rcv : Word) :
    ∑ i ∈ Finset.range (2 ^ m), entry (correlationList m rcv) i ^ 2 = (2 ^ m) ^ 2 := by
  have hone : ∀ i ∈ Finset.range (2 ^ m), entry (bipolar (2 ^ m) rcv) i ^ 2 = 1 := fun i hi => by
    rw [entry_bipolar (Finset.mem_range.1 hi)]
    cases rcv.getLsbD i <;> rfl
  rw [correlationList, fht_eq_fhtStages, sum_sq_fhtStages (length_bipolar _ _) le_rfl, Finset.sum_congr rfl hone]
  simp [sq]

/-- The peak's square is at least the mean of the squares (R181). -/
theorem le_sq_peak (m : Nat) (rcv : Word) :
    (2 ^ m : Int) ≤ entry (correlationList m rcv) (peak (2 ^ m) (correlationList m rcv)) ^ 2 := by
  have hle : ∀ i ∈ Finset.range (2 ^ m), entry (correlationList m rcv) i ^ 2 ≤
      entry (correlationList m rcv) (peak (2 ^ m) (correlationList m rcv)) ^ 2 := fun i hi =>
    Int.natAbs_le_iff_sq_le.1 (natAbs_entry_le_peak _ _ (Finset.mem_range.1 hi))
  have hsum := Finset.sum_le_card_nsmul _ _ _ hle
  rw [sum_sq_correlationList, Finset.card_range, nsmul_eq_mul, Nat.cast_pow, Nat.cast_ofNat, sq] at hsum
  exact le_of_mul_le_mul_left hsum (by positivity)

/-- Settles O55: Parseval, and the peak's square is at least the mean. -/
theorem peakValueIsNeverZero : Obligations.PeakValueIsNeverZero := by
  intro s l hs hv hl hfits
  have hn : (s.n : Int) = 2 ^ s.confM := Nat.cast_pow 2 s.confM
  have hdec := exec_decFht_of_valid hl hv hfits
  have hpeak : (s.n : Int) ≤ (s.writeDecode (correlationList s.confM l.rcv)).succeed.peakVal.toInt ^ 2 := by
    rw [State.succeed_peakVal, State.writeDecode_peakVal, hn,
      (correlations_correlationList s.confM l.rcv).toInt_sext64 hs.n_le]
    exact le_sq_peak s.confM l.rcv
  refine ⟨?_, _, hdec, (theTwoDecodePathsAgree s s.n).symm.trans hdec, rfl, hpeak, fun hzero => ?_⟩
  · rw [sum_map_range, hn, ← sum_sq_correlationList s.confM l.rcv]
    exact Finset.sum_congr rfl fun i hi => by rw [entry_correlationList (Finset.mem_range.1 hi)]
  · have hnonpos : s.n ≤ 0 := by
      rw [hzero] at hpeak
      simpa using hpeak
    exact hnonpos.not_gt s.n_pos

/-! ### Sums of signs -/

/-- The sign of a bit: 0 -> +1, 1 -> -1 (R172). -/
def bitSign (b : Bool) : Int := if b then -1 else 1

theorem bitSign_xor (a b : Bool) : bitSign (a ^^ b) = bitSign a * bitSign b := by
  cases a <;> cases b <;> rfl

theorem natAbs_bitSign (b : Bool) : (bitSign b).natAbs = 1 := by
  cases b <;> rfl

theorem bitSign_mul_neg_iff {x : Int} (hx : 0 < x) (b : Bool) : bitSign b * x < 0 ↔ b = true := by
  cases b <;> simp [bitSign, hx, hx.le]

theorem neg_one_pow_popcount (w x : Nat) : (-1) ^ popcount w x = bitSign (parity w x) := by
  induction w with
  | zero => rfl
  | succ w ih => rw [neg_one_pow_popcount_succ, ih, parity_succ, bitSign_xor, mul_comm, bitSign, bitSign]

theorem sum_bitSign (n : Nat) (f : Nat → Bool) :
    ∑ j ∈ Finset.range n, bitSign (f j) = (n : Int) - 2 * (List.range n).countP f := by
  induction n with
  | zero => rfl
  | succ n ih =>
    rw [Finset.sum_range_succ, ih, List.range_succ, List.countP_append, List.countP_singleton, bitSign]
    split <;> push_cast <;> ring

/-- Each 1 of e changes one sign, so it moves the sum by 2 (R180). -/
theorem natAbs_sum_bitSign_xor_le (n : Nat) (f e : Nat → Bool) :
    (∑ j ∈ Finset.range n, bitSign (f j ^^ e j) - ∑ j ∈ Finset.range n, bitSign (f j)).natAbs ≤
      2 * (List.range n).countP e := by
  have hterm : ∀ a b : Bool, (bitSign (a ^^ b) - bitSign a).natAbs ≤ 2 * if b then 1 else 0 := by decide
  induction n with
  | zero => exact le_rfl
  | succ n ih =>
    have hlast := hterm (f n) (e n)
    rw [Finset.sum_range_succ, Finset.sum_range_succ, List.range_succ, List.countP_append, List.countP_singleton]
    omega

/-- The signs of a linear function that is not 0 cancel (R124). -/
theorem sum_bitSign_parity {m d : Nat} (hd : d < 2 ^ m) (hne : d ≠ 0) :
    ∑ j ∈ Finset.range (2 ^ m), bitSign (parity m (j &&& d)) = 0 := by
  obtain ⟨s, hset⟩ := Nat.exists_testBit_of_ne_zero hne
  have hs : s < m := by
    by_contra hsm
    rw [Nat.testBit_lt_two_pow (hd.trans_le (Nat.pow_le_pow_right Nat.two_pos (Nat.le_of_not_lt hsm)))] at hset
    exact Bool.false_ne_true hset
  have hflip (j : Nat) : parity m ((j ^^^ 2 ^ s) &&& d) = !parity m (j &&& d) := by
    rw [Nat.and_xor_distrib_right, Nat.two_pow_and, hset, parity_xor]
    simp [parity_two_pow, hs]
  have hhalf := two_mul_countP_range_of_flip (f := fun j => parity m (j &&& d)) hs hflip
  rw [sum_bitSign]
  omega

/-! ### Few flips -/

theorem correlation_eq_sum (m : Nat) (rcv : Word) (i : Nat) :
    correlation m rcv i = ∑ j ∈ Finset.range (2 ^ m), bitSign (parity m (i &&& j)) * bitSign (rcv.getLsbD j) := by
  rw [correlation, sum_map_range]
  simp only [neg_one_pow_popcount]
  rfl

/-- Where a codeword's closed form and the error e make up the received word, its correlation with the i-th linear
function is one of e with the difference of the message and i (R179, R180). -/
theorem correlation_of_flips {m : Nat} (hm : m ≤ 6) (u rcv : Word) (i : Nat) :
    correlation m rcv i = bitSign (u.getLsbD 0) *
      ∑ j ∈ Finset.range (2 ^ m),
        bitSign (parity m (j &&& (field u m 1 ^^^ i)) ^^ (rcv ^^^ encodeFn m u).getLsbD j) := by
  have hcancel : ∀ p q r c : Bool, (q ^^ r) = (c ^^ ((p ^^ q) ^^ (r ^^ (c ^^ p)))) := by decide
  rw [correlation_eq_sum, Finset.mul_sum]
  refine Finset.sum_congr rfl fun j hj => ?_
  rw [BitVec.getLsbD_xor, (codewordClosedForms m u hm).1 j (Finset.mem_range.1 hj), Nat.and_xor_distrib_left,
    parity_xor, Nat.and_comm i j, ← bitSign_xor, ← bitSign_xor]
  exact congrArg bitSign (hcancel _ _ _ _)

/-- Bits above a value's length add nothing to its count. -/
theorem popcount_of_lt {w n x : Nat} (hx : x < 2 ^ n) (hn : n ≤ w) : popcount w x = popcount n x := by
  induction w, hn using Nat.le_induction with
  | base => rfl
  | succ w hw ih =>
    have hclear : bit x w = false := Nat.testBit_lt_two_pow (hx.trans_le (Nat.pow_le_pow_right Nat.two_pos hw))
    rw [popcount_succ, ih, hclear]
    rfl

/-- The only index of largest magnitude is the peak. -/
theorem peak_eq_of_largest {n q : Nat} {w : List Int} (hq : q < n)
    (h : ∀ i, i < n → i ≠ q → (entry w i).natAbs < (entry w q).natAbs) : peak n w = q := by
  by_contra hne
  exact (h _ (peak_lt (Nat.zero_lt_of_lt hq) w) hne).not_ge (natAbs_entry_le_peak n w hq)

/-- The correlations of a codeword with t flips: n - 2t with the sign of the constant term at the message's linear part,
at most 2t in magnitude everywhere else (R180). -/
theorem correlation_cases_of_flips {m t : Nat} (hm : m ≤ 6) (u rcv : Word)
    (ht : popcount (2 ^ m) (rcv ^^^ encodeFn m u).toNat = t) :
    correlation m rcv (field u m 1) = bitSign (u.getLsbD 0) * ((2 ^ m : Nat) - 2 * t) ∧
      ∀ i, i < 2 ^ m → i ≠ field u m 1 → (correlation m rcv i).natAbs ≤ 2 * t := by
  have hcount : (List.range (2 ^ m)).countP ((rcv ^^^ encodeFn m u).getLsbD ·) = t := ht
  constructor
  · rw [correlation_of_flips hm u, Nat.xor_self]
    simp only [Nat.and_zero, parity_zero, Bool.false_xor, sum_bitSign, hcount]
  · intro i hi hne
    have hfield : field u m 1 < 2 ^ m := by
      rw [field, Nat.add_sub_cancel]
      exact Nat.mod_lt _ (Nat.two_pow_pos m)
    have hzero := sum_bitSign_parity (Nat.xor_lt_two_pow hfield hi) (mt Nat.xor_eq_zero_iff.1 hne.symm)
    have hmoved := natAbs_sum_bitSign_xor_le (2 ^ m) (fun j => parity m (j &&& (field u m 1 ^^^ i)))
      ((rcv ^^^ encodeFn m u).getLsbD ·)
    rw [hzero, Int.sub_zero, hcount] at hmoved
    rwa [correlation_of_flips hm u, Int.natAbs_mul, natAbs_bitSign, Nat.one_mul]

/-- With fewer than n/4 flips the message's linear part stands out (R180). -/
theorem peak_of_flips {m t : Nat} (hm : m ≤ 6) {u rcv : Word} (hu : u.toNat < 2 ^ (m + 1))
    (ht : popcount (2 ^ m) (rcv ^^^ encodeFn m u).toNat = t) (hfew : 4 * t < 2 ^ m) :
    peak (2 ^ m) (correlationList m rcv) = u.toNat / 2 ∧
      entry (correlationList m rcv) (u.toNat / 2) = bitSign (u.getLsbD 0) * ((2 ^ m : Nat) - 2 * t) := by
  have hlinear : field u m 1 = u.toNat / 2 := by
    rw [field_eq_div_mod, Nat.add_sub_cancel, Nat.mod_eq_of_lt (by omega), Nat.pow_one]
  have hlt : u.toNat / 2 < 2 ^ m := by omega
  obtain ⟨hvalue, hothers⟩ := correlation_cases_of_flips hm u rcv ht
  rw [hlinear, ← entry_correlationList hlt] at hvalue
  rw [hlinear] at hothers
  refine ⟨peak_eq_of_largest hlt fun i hi hne => ?_, hvalue⟩
  have hother := hothers i hi hne
  rw [entry_correlationList hi, hvalue, Int.natAbs_mul, natAbs_bitSign]
  omega

/-- Recovery reads a message off its linear part as the peak and its constant term as the sign (R175). -/
theorem recover_eq_message {m : Nat} {u : Word} {w : List Int} (hu : u.toNat < 2 ^ (m + 1))
    (hsign : entry w (u.toNat / 2) < 0 ↔ u.getLsbD 0 = true) : recover m w (u.toNat / 2) = u := by
  have hbit : u.getLsbD 0 = true ↔ u.toNat % 2 = 1 := by simp [BitVec.getLsbD]
  have hvalue : (2 * (u.toNat / 2) + if entry w (u.toNat / 2) < 0 then 1 else 0) = u.toNat := by
    simp only [hsign, hbit]
    split <;> omega
  rw [recover_eq_ofNat w (by omega), hvalue, BitVec.ofNat_toNat, BitVec.setWidth_eq]

/-- Settles O54: `peak_of_flips` gives the peak and its value, and `recover_eq_message` the message. -/
theorem fewFlipsAreCorrected : Obligations.FewFlipsAreCorrected := by
  intro s l u hs hv hl hu hfits hflips
  have hm := hs.confM_le_six
  have hn := hs.n_le
  have hmsg : u.toNat < 2 ^ (s.confM + 1) := (strayBits_eq_false_iff u (by omega)).1 hu
  have herror : (l.rcv ^^^ encodeFn s.confM u).toNat < 2 ^ s.n := by
    rw [BitVec.toNat_xor]
    exact Nat.xor_lt_two_pow ((strayBits_eq_false_iff _ hn).1 hfits)
      ((strayBits_eq_false_iff _ hn).1 (strayBits_packBits _ _))
  rw [popcount_of_lt herror hn, State.n] at hflips ⊢
  obtain ⟨hpeak, hvalue⟩ := peak_of_flips hm hmsg rfl hflips
  have hdec := exec_decFht_of_valid hl hv hfits
  refine ⟨_, hdec, (theTwoDecodePathsAgree s s.n).symm.trans hdec, rfl, ?_, ?_, ?_⟩
  · rw [State.succeed_dec, State.writeDecode_dec, State.n, hpeak]
    refine recover_eq_message hmsg ?_
    rw [hvalue]
    exact bitSign_mul_neg_iff (by omega) _
  · rw [State.succeed_peakIdx, State.writeDecode_peakIdx, State.n, hpeak]
    refine BitVec.eq_of_toNat_eq ?_
    rw [toNat_zext64, BitVec.toNat_ushiftRight, Nat.shiftRight_eq_div_pow, Nat.pow_one, Nat.mod_eq_of_lt (by omega)]
  · rw [State.succeed_peakVal, State.writeDecode_peakVal, (correlations_correlationList s.confM l.rcv).toInt_sext64 hn,
      State.n, hpeak, hvalue]
    rfl

/-! ### The noiseless round trip -/

/-- An ENC without error wrote the codeword of a message that fits (R120). -/
theorem exec_enc_success {s t : State} {l : Latch} {len : Nat} (hl : s.inflight = some l)
    (h : exec (.enc len) s = .next t) (herr : t.err = .none) :
    s.confValid = true ∧ strayBits l.msg s.k = false ∧ t.cw = encodeWith s.gmat s.n s.k l.msg := by
  obtain ⟨l', hl', ⟨e, rfl, hne⟩ | ⟨hi, -⟩ | ⟨_, hi, -⟩ | ⟨_, -, hv, -, hfits, rfl⟩ | ⟨_, _, hi | hi, -⟩ |
    ⟨_, _, _, hi, -⟩⟩ := exec_eq_next_cases h
  case inr.inr.inr.inl =>
    obtain rfl : l = l' := Option.some.inj (hl.symm.trans hl')
    exact ⟨hv, hfits, rfl⟩
  case inl => exact absurd herr hne
  all_goals cases hi

/-- Settles O53: no flips are few flips. -/
theorem noiselessRoundTrip : Obligations.NoiselessRoundTrip := by
  intro s t u l l' hs hl henc herr hu huv hm hul hrcv
  obtain ⟨hsv, hmsg, hcw⟩ := exec_enc_success hl henc herr
  obtain ⟨-, -, hgmat⟩ := hs.configured hsv
  have hcode : l'.rcv = encodeFn u.confM l.msg := by
    rw [hrcv, hcw, hgmat, hm]
    rfl
  have hmsg' : strayBits l.msg u.k = false := by rwa [State.k, hm]
  have hfits : strayBits l'.rcv u.n = false := by
    rw [hcode]
    exact strayBits_packBits _ _
  have hfew : 4 * popcount 64 (l'.rcv ^^^ encodeFn u.confM l.msg).toNat < u.n := by
    rw [hcode, BitVec.xor_self]
    exact u.n_pos
  obtain ⟨f, hfht, hkron, hnone, hdec, -, -⟩ := fewFlipsAreCorrected u l' l.msg hu huv hul hmsg' hfits hfew
  exact ⟨⟨f, hfht, hnone, hdec⟩, ⟨f, hkron, hnone, hdec⟩⟩

/-! ### The inverse convention -/

theorem entry_map_neg (w : List Int) (i : Nat) : entry (w.map fun x => -x) i = -entry w i := by
  by_cases hi : i < w.length <;> simp [entry, hi]

theorem fht_map_neg {m : Nat} {a : List Int} (hlen : a.length = 2 ^ m) :
    fht m (a.map fun x => -x) = (fht m a).map fun x => -x := by
  refine list_ext_entry (by simp) fun i hi => ?_
  have hi' : i < 2 ^ m := by simpa [hlen] using hi
  rw [entry_fht (by simp [hlen]) hi', entry_map_neg, entry_fht hlen hi', ← Finset.sum_neg_distrib]
  exact Finset.sum_congr rfl fun j _ => by rw [entry_map_neg, mul_neg]

/-- The peak sees magnitudes only (R174). -/
theorem peak_map_neg (n : Nat) (w : List Int) : peak n (w.map fun x => -x) = peak n w := by
  simp only [peak, entry_map_neg, Int.natAbs_neg]

/-- Settles O56: the transform is linear, the peak sees magnitudes only, and a negated peak is positive where the peak
is negative. -/
theorem inverseConventionGivesTheSameMessage : Obligations.InverseConventionGivesTheSameMessage := by
  intro m rcv _
  rw [fht_map_neg (length_bipolar _ rcv), peak_map_neg, entry_map_neg, recover]
  simp only [Int.neg_pos, and_self]

end Sys2Proof.Machine
end

section
/-! PROOFS. What every completion and every run keeps going: a command in flight completes and one that fails wrote only
its code (O39), a value that decodes to ILLEGAL completes with IllegalCommand (O24), and hosts that make only legal
accesses never stop the machine (O60). -/

namespace Sys2Proof.Machine

/-! ### Completion -/

/-- Every meaning works on the latch, so with a command in flight it answers a next state (R43, R200). -/
theorem exists_exec_eq_next (i : Instr) {s : State} (h : s.inflight ≠ none) : ∃ t, exec i s = .next t := by
  obtain ⟨l, hl⟩ := Option.ne_none_iff_exists'.1 h
  cases i <;> exact ⟨_, onLatch_some hl⟩

/-- A command raised its error and nothing else, or it has succeeded (R210). -/
theorem exec_eq_raise_or_err_none {i : Instr} {s t : State} (h : exec i s = .next t) :
    t = s.raise t.err ∨ t.err = .none := by
  obtain ⟨l, -, ⟨e, rfl, -⟩ | ⟨-, rfl⟩ | ⟨m, -, -, -, rfl⟩ | ⟨len, -, -, -, -, rfl⟩ | ⟨p, len, -, -, -, rfl⟩ |
    ⟨a, b, c, -, -, -, -, -, -, rfl⟩⟩ := exec_eq_next_cases h
  case inl => exact .inl rfl
  all_goals exact .inr rfl

/-- Settles O39: a meaning with a full latch answers, empties the latch, and raises or succeeds. -/
theorem everyCommandCompletesPrecisely : Obligations.EveryCommandCompletesPrecisely := by
  intro i s hbusy
  obtain ⟨t, ht⟩ := exists_exec_eq_next i hbusy
  exact ⟨t, ht, exec_inflight ht, fun hfailed => (exec_eq_raise_or_err_none ht).resolve_right hfailed⟩

/-! ### The engine's turn -/

theorem engineStep_of_illegal {s : State} {l : Latch} {r : Illegal} (hl : s.inflight = some l)
    (hd : decode l.cmd = .error r) : engineStep s = .next (s.raise .illegalCommand) := by
  simp [engineStep, hl, complete, hd]

theorem step_of_engineTurn {s : State} {ts : List Turn} (h : s.schedule = .engine :: ts) :
    step s = engineStep { s with schedule := ts } := by
  rw [step_of_schedule h, State.popTurn, h]
  rfl

/-- Settles O24: in both cases the turn is the engine's, on the latched value. -/
theorem illegalCommandWritesOnlyItsCode : Obligations.IllegalCommandWritesOnlyItsCode := by
  intro s l r hl hd
  have hbusy : s.busy = true := by simp [State.busy, hl]
  exact ⟨fun ts hts => (step_of_engineTurn hts).trans (engineStep_of_illegal hl hd),
    fun hempty => (step_of_busy hempty hbusy).trans (engineStep_of_illegal hl hd)⟩

/-- No value in the latch stops the engine (R90, R200). -/
theorem exists_engineStep_eq_next (s : State) : ∃ t, engineStep s = .next t := by
  cases hl : s.inflight with
  | none => exact ⟨s, by simp [engineStep, hl]⟩
  | some l =>
    cases hd : decode l.cmd with
    | ok i =>
      rw [engineStep_of_decode hl hd]
      exact exists_exec_eq_next i (by simp [hl])
    | error r => exact ⟨_, engineStep_of_illegal hl hd⟩

/-- The engine's turn leaves the hosts as they are. -/
theorem engineStep_hosts {s t : State} (h : engineStep s = .next t) : t.hosts = s.hosts := by
  obtain ⟨-, rfl⟩ | ⟨l, -, ⟨i, -, hi⟩ | ⟨r, -, rfl⟩⟩ := engineStep_cases h
  · rfl
  · obtain ⟨-, -, -, -, -, -, -, hhosts, -⟩ := commandsWriteOnlyTheirOwnResults i s t hi
    exact hhosts
  · rfl

/-! ### Hosts that make only legal accesses -/

/-- A legal read is one that has an offset (R61 to R64). -/
theorem HostOp.legal_read_iff {c : Config} {addr count : Nat} :
    (HostOp.read addr count).legal c = true ↔ ∃ off, accessOffset c addr count = .next off := by
  simp only [HostOp.legal, Bool.and_eq_true, decide_eq_true_eq, beq_iff_eq, accessOffset_eq_next_iff]
  constructor
  · rintro ⟨⟨⟨hlow, hhigh⟩, hcount⟩, halign⟩
    exact ⟨addr - c.base, by omega, by omega, halign, hcount⟩
  · rintro ⟨off, rfl, hwin, halign, hcount⟩
    simp [hwin, halign, hcount]

/-- A legal write is one that has an offset (R61 to R64). -/
theorem HostOp.legal_write_iff {c : Config} {addr : Nat} {data : List Byte} :
    (HostOp.write addr data).legal c = true ↔ ∃ off, accessOffset c addr data.length = .next off :=
  HostOp.legal_read_iff

theorem State.hostsLegal_iff {s : State} :
    s.hostsLegal = true ↔ ∀ b ∈ s.hosts, b.prog.all (HostOp.legal s.cfg) = true :=
  List.all_eq_true

theorem State.hostsLegal_congr {s t : State} (hhosts : t.hosts = s.hosts) (hcfg : t.cfg = s.cfg) :
    t.hostsLegal = s.hostsLegal := by
  rw [State.hostsLegal, State.hostsLegal, hhosts, hcfg]

section LegalHosts

variable {s : State} (hs : s.hostsLegal = true)

include hs

/-- A host that goes on legally leaves all hosts legal. -/
theorem State.hostsLegal_setHost (h : Nat) {b : BusHost} (hb : b.prog.all (HostOp.legal s.cfg) = true) :
    (s.setHost h b).hostsLegal = true := by
  refine State.hostsLegal_iff.2 fun b' hb' => ?_
  obtain hold | rfl := List.mem_or_eq_of_mem_set hb'
  · exact State.hostsLegal_iff.1 hs b' hold
  · exact hb

/-- A read that has an offset answers, and leaves the hosts legal if what the reader goes on with is legal. -/
theorem hostRead_legal (h : Nat) (b : BusHost) {addr count off : Nat} {prog : List Byte → List HostOp}
    (hoff : accessOffset s.cfg addr count = .next off) (hprog : ∀ bs, (prog bs).all (HostOp.legal s.cfg) = true) :
    ∃ t, hostRead s h b addr count prog = .next t ∧ t.hostsLegal = true := by
  rw [hostRead_eq_atOffset, hoff]
  exact ⟨_, rfl, State.hostsLegal_setHost hs h (hprog _)⟩

/-- A write of a host that has an offset answers, and leaves the hosts legal if what the host goes on with is legal. -/
theorem busWrite_legal (h : Nat) {b : BusHost} {addr off : Nat} {data : List Byte}
    (hoff : accessOffset s.cfg addr data.length = .next off) (hb : b.prog.all (HostOp.legal s.cfg) = true) :
    ∃ t, busWrite (s.setHost h b) addr data = .next t ∧ t.hostsLegal = true := by
  rw [busWrite_eq_atOffset, State.setHost_cfg, hoff]
  refine ⟨_, rfl, ?_⟩
  rw [State.hostsLegal_congr (State.writeReg_hosts ..) (State.writeReg_cfg ..)]
  exact State.hostsLegal_setHost hs h hb

/-- A turn of a legal host answers (R61 to R64), and what the host has left is legal. -/
theorem hostStep_legal (h : Nat) : ∃ t, hostStep h s = .next t ∧ t.hostsLegal = true := by
  cases hb : s.hosts[h]? with
  | none => exact ⟨s, by simp [hostStep, hb], hs⟩
  | some b =>
    have hlegal := State.hostsLegal_iff.1 hs b (List.mem_of_getElem? hb)
    cases hprog : b.prog with
    | nil => exact ⟨s, by simp [hostStep, hb, hprog], hs⟩
    | cons op rest =>
      rw [hprog, List.all_cons, Bool.and_eq_true] at hlegal
      obtain ⟨hop, hrest⟩ := hlegal
      simp only [hostStep, hb, hprog]
      cases op with
      | write addr data =>
        obtain ⟨off, hoff⟩ := HostOp.legal_write_iff.1 hop
        exact busWrite_legal hs h hoff hrest
      | read addr count =>
        obtain ⟨off, hoff⟩ := HostOp.legal_read_iff.1 hop
        exact hostRead_legal hs h b hoff fun _ => hrest
      | wait =>
        refine hostRead_legal hs h b (accessOffset_window (off := 0x010) (by decide) (by decide)) fun bs => ?_
        split
        · rw [List.all_cons, hop, hrest, Bool.true_and]
        · exact hrest

/-- Every agent's turn answers and leaves the hosts legal. -/
theorem takeTurn_legal (a : Turn) : ∃ t, takeTurn a s = .next t ∧ t.hostsLegal = true := by
  cases a with
  | host h => exact hostStep_legal hs h
  | engine =>
    obtain ⟨t, ht⟩ := exists_engineStep_eq_next s
    exact ⟨t, ht, (State.hostsLegal_congr (engineStep_hosts ht) (takeTurn_cfg (a := .engine) ht)).trans hs⟩
  | reset => exact ⟨_, rfl, hs⟩

theorem step_legal : ∃ t, step s = .next t ∧ t.hostsLegal = true := by
  unfold step
  split
  · exact ⟨s, rfl, hs⟩
  · exact takeTurn_legal (s := s.popTurn) hs _

end LegalHosts

/-- A property under which a step answers and which the step keeps makes a run safe. -/
theorem State.Safe.of_invariant {P : State → Prop} (hstep : ∀ s, P s → ∃ t, step s = .next t ∧ P t) {s : State}
    (hs : P s) : s.Safe := by
  intro k
  induction k generalizing s with
  | zero => exact ⟨s, rfl⟩
  | succ k ih =>
    obtain ⟨u, hu, hP⟩ := hstep s hs
    obtain ⟨t, ht⟩ := ih hP
    exact ⟨t, by simp [runFor, hu, ht]⟩

/-- Settles O60: legality of the hosts makes a step answer, and the step keeps it. -/
theorem legalHostsRunForever : Obligations.LegalHostsRunForever :=
  fun _ hs => .of_invariant (P := fun s => s.hostsLegal = true) (fun _ => step_legal) hs

end Sys2Proof.Machine
end

section
/-! PROOFS. Reset and fairness: reset leaves the reset table's values (O26), and a command in flight is completed after
finitely many steps (O28). -/

namespace Sys2Proof.Machine

/-! ### Reset -/

/-- Settles O26: the turn is reset's, and `State.resetBlock` is the reset table with the turn used up. -/
theorem resetSetsEveryPieceOfState : Obligations.ResetSetsEveryPieceOfState := by
  intro s ts hts
  rw [step_of_schedule hts, State.popTurn, hts]
  rfl

/-! ### Fairness -/

theorem runFor_succ_of_step {s t : State} (h : step s = .next t) (k : Nat) : runFor (k + 1) s = runFor k t := by
  simp [runFor, h]

theorem step_of_nextTurn {s : State} {a : Turn} (h : s.nextTurn = some a) : step s = takeTurn a s.popTurn := by
  simp [step, h]

/-- When the engine moves next, the step answers and empties the latch (R43, R200). -/
theorem exists_step_of_nextTurn_engine {s : State} (h : s.nextTurn = some .engine) :
    ∃ u, step s = .next u ∧ u.inflight = none := by
  obtain ⟨u, hu⟩ := exists_engineStep_eq_next s.popTurn
  exact ⟨u, (step_of_nextTurn h).trans hu, engineStep_inflight hu⟩

/-- A legal host's turn answers, uses up its entry of the schedule, and keeps the hosts legal and the command in
flight (R42, R61 to R64). -/
theorem exists_step_of_hostTurn {s : State} {l : Latch} {h : Nat} {ts : List Turn} (hts : s.schedule = .host h :: ts)
    (hl : s.inflight = some l) (hs : s.hostsLegal = true) :
    ∃ u, step s = .next u ∧ u.inflight = some l ∧ u.schedule = ts ∧ u.hostsLegal = true := by
  obtain ⟨u, hturn, hlegal⟩ := hostStep_legal (s := s.popTurn) hs h
  have hsched : u.schedule = ts := by rw [hostStep_schedule hturn, State.popTurn_schedule, hts, List.tail_cons]
  exact ⟨u, (step_of_schedule hts).trans hturn, hostStep_inflight (s := s.popTurn) hl hturn, hsched, hlegal⟩

/-- A schedule without reset comes, within its length, to the engine's turn on the command in flight: host turns keep
that command, and past the schedule's end the engine moves (R240). -/
theorem exists_runFor_nextTurn_engine (ts : List Turn) {s : State} {l : Latch} (hts : s.schedule = ts)
    (hl : s.inflight = some l) (hreset : Turn.reset ∉ ts) (hs : s.hostsLegal = true) :
    ∃ k, k ≤ ts.length ∧ ∃ t, runFor k s = .next t ∧ t.inflight = some l ∧ t.nextTurn = some .engine := by
  induction ts generalizing s with
  | nil => exact ⟨0, Nat.le_refl 0, s, rfl, hl, State.nextTurn_of_busy hts (by simp [State.busy, hl])⟩
  | cons a ts ih =>
    rw [List.mem_cons, not_or] at hreset
    obtain ⟨hhead, htail⟩ := hreset
    cases a with
    | engine => exact ⟨0, Nat.zero_le _, s, rfl, hl, State.nextTurn_of_schedule hts⟩
    | reset => exact absurd rfl hhead
    | host h =>
      obtain ⟨u, hstep, hlu, htsu, hsu⟩ := exists_step_of_hostTurn hts hl hs
      obtain ⟨k, hk, t, hrun, hlt, hnext⟩ := ih htsu hlu htail hsu
      exact ⟨k + 1, Nat.succ_le_succ hk, t, (runFor_succ_of_step hstep k).trans hrun, hlt, hnext⟩

/-- Settles O28: the schedule comes to the engine's turn on the command, and that turn empties the latch. -/
theorem commandInFlightCompletes : Obligations.CommandInFlightCompletes := by
  intro s l hl hreset hs
  obtain ⟨k, hk, t, hrun, hlt, hnext⟩ := exists_runFor_nextTurn_engine s.schedule rfl hl hreset hs
  obtain ⟨u, hstep, hempty⟩ := exists_step_of_nextTurn_engine hnext
  exact ⟨k, hk, t, u, hrun, hlt, hnext, hstep, hempty⟩

end Sys2Proof.Machine
end
